-- ==== Sys2Proof/Word.lean ====
section
/-! DEFINITION. The value types of the engine (`00_scope.md` rule R8). Lengths, offsets, counts and results, the
spec's `Len`, are unbounded naturals (R8, D8) and are written `Nat`. -/

namespace Sys2Proof

/-- One element of the byte side: 8 bits, numbered 7 down to 0 (R6). -/
abbrev Byte := BitVec 8

/-- A symbol code: 6 bits, numbered 5 down to 0 (R6). -/
abbrev Sym6 := BitVec 6

/-- One element of the text side: a code point on the 21-bit port (R8, D9). -/
abbrev CodePoint := BitVec 21

end Sys2Proof
end

