-- ==== Sys2Proof/Syntax.lean ====
section
/-! DEFINITION. The instructions: one constructor per row of `spec/opcode_table.json` (`00_scope.md` rule R2). -/

namespace Sys2Proof

/-- The eight operations of the command word (`30_encoding.md` rule R51), each with its `whole` bit (R50), and the
seven steps of the two state machines (R55). -/
inductive Instr where
  /-- ENCODE (R86): text to bytes, fresh destination. -/
  | encode (whole : Bool)
  /-- DECODE (R105): bytes to text, fresh destination. -/
  | decode (whole : Bool)
  /-- GETBYTECOUNT (R122). -/
  | getByteCount (whole : Bool)
  /-- GETCHARCOUNT (R123). -/
  | getCharCount (whole : Bool)
  /-- GETMAXBYTECOUNT (R124); `whole` may only be 0 (R51). -/
  | getMaxByteCount (whole : Bool)
  /-- GETMAXCHARCOUNT (R125); `whole` may only be 0 (R51). -/
  | getMaxCharCount (whole : Bool)
  /-- ENCODE_INTO (R87): text to bytes, into the host's buffer. -/
  | encodeInto (whole : Bool)
  /-- DECODE_INTO (R106): bytes to text, into the host's buffer. -/
  | decodeInto (whole : Bool)
  /-- ENC.P0 (R80). -/
  | encP0
  /-- ENC.P1 (R81). -/
  | encP1
  /-- ENC.P2 (R82). -/
  | encP2
  /-- ENC.P3 (R83). -/
  | encP3
  /-- DEC.P0 (R100). -/
  | decP0
  /-- DEC.P1 (R101). -/
  | decP1
  /-- DEC.P2 (R102). -/
  | decP2
deriving DecidableEq, Repr

end Sys2Proof
end

