-- ==== Sys2Proof/WellFormed.lean ====
section
/-! DEFINITION. Which instruction terms the encoding has (`30_encoding.md` rules R51, R57). -/

namespace Sys2Proof

/-- The `whole` bit is 0 only for the two Max queries, 0 or 1 for the other operations (R51); a step has no operand. -/
def Instr.WellFormed : Instr → Bool
  | .encode _ => true
  | .decode _ => true
  | .getByteCount _ => true
  | .getCharCount _ => true
  | .getMaxByteCount whole => !whole
  | .getMaxCharCount whole => !whole
  | .encodeInto _ => true
  | .decodeInto _ => true
  | .encP0 => true
  | .encP1 => true
  | .encP2 => true
  | .encP3 => true
  | .decP0 => true
  | .decP1 => true
  | .decP2 => true

end Sys2Proof
end

