-- ==== Sys2Proof/Decode.lean ====
section
/-! DEFINITION. The decoder and the encoder of the command word CMD8 (`30_encoding.md` rules R50, R51, R57) and of the
step selector STEP3 (rule R55). -/

namespace Sys2Proof

/-- A word of one of the two formats. -/
inductive Code where
  /-- CMD8: the byte the host writes to `CMD` (R50). -/
  | cmd8 (w : BitVec 8)
  /-- STEP3: the selector `d pp` (R55). -/
  | step3 (sel : BitVec 3)
deriving DecidableEq, Repr

/-- Why a word is no instruction. -/
inductive DecodeReject where
  /-- A command word with any of bits 7:4 set (R57). -/
  | reservedBits
  /-- `0x0C` or `0x0D`: `whole = 1` with a Max query (R57). -/
  | wholeNotAllowed
  /-- Selector `1 11`, which never occurs (R55). -/
  | noSuchSelector
deriving DecidableEq, Repr

/-- The `op` field, bits 2:0 (R50). -/
def opField (w : BitVec 8) : BitVec 3 := w.extractLsb' 0 3

/-- The `whole` field, bit 3 (R50). -/
def wholeField (w : BitVec 8) : Bool := w.getLsbD 3

/-- The reserved field, bits 7:4 (R50). -/
def reservedField (w : BitVec 8) : BitVec 4 := w.extractLsb' 4 4

/-- The operation an `op` number and a `whole` bit select (R51). -/
def opInstr (op : BitVec 3) (whole : Bool) : Instr :=
  if op = 0 then .encode whole
  else if op = 1 then .decode whole
  else if op = 2 then .getByteCount whole
  else if op = 3 then .getCharCount whole
  else if op = 4 then .getMaxByteCount whole
  else if op = 5 then .getMaxCharCount whole
  else if op = 6 then .encodeInto whole
  else .decodeInto whole

/-- Decoding a command word: total, the reserved words rejected by name (R51, R57). -/
def decodeCmd (w : BitVec 8) : Except DecodeReject Instr :=
  if reservedField w = 0 then
    if (opInstr (opField w) (wholeField w)).WellFormed then .ok (opInstr (opField w) (wholeField w))
    else .error .wholeNotAllowed
  else .error .reservedBits

/-- Decoding a step selector (R55). -/
def decodeSelector (sel : BitVec 3) : Except DecodeReject Instr :=
  if sel = 0 then .ok .encP0
  else if sel = 1 then .ok .encP1
  else if sel = 2 then .ok .encP2
  else if sel = 3 then .ok .encP3
  else if sel = 4 then .ok .decP0
  else if sel = 5 then .ok .decP1
  else if sel = 6 then .ok .decP2
  else .error .noSuchSelector

/-- The decoder. -/
def decode : Code → Except DecodeReject Instr
  | .cmd8 w => decodeCmd w
  | .step3 sel => decodeSelector sel

/-- A command word from its fields (R50): `0000 : whole : op`. -/
def cmdWord (op : BitVec 3) (whole : Bool) : BitVec 8 := 0#4 ++ (BitVec.ofBool whole ++ op)

/-- The encoder, from the same tables (R51, R55). -/
def encode : Instr → Code
  | .encode whole => .cmd8 (cmdWord 0 whole)
  | .decode whole => .cmd8 (cmdWord 1 whole)
  | .getByteCount whole => .cmd8 (cmdWord 2 whole)
  | .getCharCount whole => .cmd8 (cmdWord 3 whole)
  | .getMaxByteCount whole => .cmd8 (cmdWord 4 whole)
  | .getMaxCharCount whole => .cmd8 (cmdWord 5 whole)
  | .encodeInto whole => .cmd8 (cmdWord 6 whole)
  | .decodeInto whole => .cmd8 (cmdWord 7 whole)
  | .encP0 => .step3 0
  | .encP1 => .step3 1
  | .encP2 => .step3 2
  | .encP3 => .step3 3
  | .decP0 => .step3 4
  | .decP1 => .step3 5
  | .decP2 => .step3 6

/-- The word of `nbits` bits as the opcode table numbers them: a row of 8 bits is a command word, a shorter row a step
selector. A table word of 8 bits cannot also be a selector: log entry 12. -/
def tableCode (nbits w : Nat) : Option Code :=
  if nbits = 8 then (if w < 256 then some (.cmd8 (BitVec.ofNat 8 w)) else none)
  else if nbits < 8 then (if w < 8 then some (.step3 (BitVec.ofNat 3 w)) else none)
  else none

/-- What the decoder reads from such a word; none where it refuses. -/
def decodeTableWord (nbits w : Nat) : Option Instr :=
  match tableCode nbits w with
  | none => none
  | some c =>
    match decode c with
    | .ok i => some i
    | .error _ => none

end Sys2Proof
end

