-- ==== Sys2Proof/Machine/Tables.lean ====
section
/-! DEFINITION. The tables of an engine and the constraints that every configuration meets (`10_state.md` rules R20 to
R22, `40_symbol_translation.md` rules R70, R72, R73). -/

namespace Sys2Proof

/-- The contents of the read-only tables, "compile-time constants" of one engine (R20, R21, R22). -/
structure TableData where
  /-- `SYMTAB`: the code point of each of the 64 slots (R20). -/
  symtab : Vector CodePoint 64
  /-- Which slots are assigned to a member of the alphabet (R20, R21). -/
  assigned : Vector Bool 64
  /-- `ENC_INDEX` as a listing; the first pair listed for a code point counts (R21, R73). -/
  encIndex : List (CodePoint × Sym6)
  /-- `FALLBACK_INDEX` (R22). -/
  fallback : Sym6
deriving DecidableEq, Repr

/-- A Unicode scalar value (R8). -/
def isScalar (c : CodePoint) : Bool :=
  decide (c.toNat ≤ 0x10FFFF) && !(decide (0xD800 ≤ c.toNat) && decide (c.toNat ≤ 0xDFFF))

/-- The first pair listed for `c` (R21, R73: "pick the first listed"). -/
def firstListed (c : CodePoint) : List (CodePoint × Sym6) → Option Sym6
  | [] => none
  | (d, s) :: rest => if d = c then some s else firstListed c rest

/-- The 64 slots in table order. -/
def slots : List Sym6 := (List.range 64).map (BitVec.ofNat 6)

/-- The 40 members of the alphabet (R20): space, `A` to `Z`, `0` to `9`, `$`, `.`, `%`. -/
def members : List CodePoint :=
  0x20 :: ((List.range 26).map fun i => BitVec.ofNat 21 (0x41 + i)) ++
    ((List.range 10).map fun i => BitVec.ofNat 21 (0x30 + i)) ++ [0x24, 0x2E, 0x25]

/-- `SYMTAB[s]`. -/
def TableData.codeAt (t : TableData) (s : Sym6) : CodePoint := t.symtab[s.toNat]'s.isLt

/-- Slot `s` is assigned (R20). -/
def TableData.assignedAt (t : TableData) (s : Sym6) : Bool := t.assigned[s.toNat]'s.isLt

/-- `ENC_INDEX(c)` (R21); never defined on a value that is not a scalar value (R70 (a), D9). -/
def TableData.lookup (t : TableData) (c : CodePoint) : Option Sym6 :=
  if isScalar c then firstListed c t.encIndex else none

/-- R72 (1), with rules R20 and R70 (e): slot 0 is the space's, and the space maps to it. -/
def TableData.spaceLegal (t : TableData) : Bool :=
  decide (t.codeAt 0 = 0x20) && t.assignedAt 0 && decide (t.lookup 0x20 = some 0)

/-- R72 (2): every member has an assigned slot. -/
def TableData.membersLegal (t : TableData) : Bool :=
  members.all fun c => slots.any fun s => t.assignedAt s && decide (t.codeAt s = c)

/-- R72 (3): a code point that `ENC_INDEX` maps decodes back. -/
def TableData.inverseLegal (t : TableData) : Bool :=
  t.encIndex.all fun p => decide (t.lookup p.1 = some p.2 → t.codeAt p.2 = p.1)

/-- R20: "the remaining 24 slots are unassigned". -/
def TableData.countLegal (t : TableData) : Bool := decide ((slots.filter fun s => !t.assignedAt s).length = 24)

/-- The constraints every configured table must meet (R20, R72; (4) is the type of `fallback`). Of R70's example its first
half, that `U+0020` gives 0, is one of them; its second half, that `U+003F` gives the fallback, is read as said of the
default `ENC_INDEX` and is none (DEDUCED). Log entry 18. -/
def TableData.isLegal (t : TableData) : Bool := t.spaceLegal && t.membersLegal && t.inverseLegal && t.countLegal

/-- The tables of one engine: contents that meet the constraints. Which they are is open beyond that (D5, D6, D7), so
they are data, and every statement about all states is about all legal tables. -/
structure Tables extends TableData where
  legal : toTableData.isLegal = true
deriving DecidableEq, Repr

/-- Contents in the order in which R20 lists the members. They only show that legal tables exist: no value of the
model is one of these. -/
def TableData.listed : TableData where
  symtab := Vector.ofFn fun i => members.getD i.val 0
  assigned := Vector.ofFn fun i => decide (i.val < 40)
  encIndex := [(0x20, 0)]
  fallback := 0

theorem TableData.listed_space : TableData.listed.spaceLegal = true := by decide

theorem TableData.listed_members : TableData.listed.membersLegal = true := by decide

theorem TableData.listed_inverse : TableData.listed.inverseLegal = true := by decide

theorem TableData.listed_count : TableData.listed.countLegal = true := by decide

/-- Legal tables exist. -/
theorem TableData.listed_legal : TableData.listed.isLegal = true := by
  simp only [TableData.isLegal, listed_space, listed_members, listed_inverse, listed_count, Bool.and_self]

end Sys2Proof
end

