-- ==== Sys2Proof/Config.lean ====
section
/-! DEFINITION. What an implementation fixes: the numeric parameters of `00_scope.md` rule R5, the tables of
`10_state.md` rules R20 to R22, and the free values of `93_implementation_defined.md` part 2. -/

namespace Sys2Proof

namespace Config

/-- `SYM_BITS` (R5). -/
abbrev symBits : Nat := 6

/-- `BYTE_BITS` (R5). -/
abbrev byteBits : Nat := 8

/-- `GROUP_SYMS` (R5). -/
abbrev groupSyms : Nat := 4

/-- `GROUP_BYTES` (R5). -/
abbrev groupBytes : Nat := 3

/-- `ALPHABET_SLOTS` (R5). -/
abbrev alphabetSlots : Nat := 64

/-- `PAD_INDEX` (R5): what zero padding bits read as; not the fallback index (C5). -/
abbrev padIndex : Sym6 := 0

/-- Some legal tables: which, nothing says. The argument, that there are any, is what Lean asks for of such a constant. -/
opaque anyTables [Inhabited Tables] : Tables

/-- The tables of the engine at hand (D5, D6, D7): fixed for the engine, legal (R72), otherwise not given by the spec.
Log entry 2. -/
def tables : Tables := @anyTables ⟨⟨TableData.listed, TableData.listed_legal⟩⟩

/-- `IDX_WIDTH` of the implementation at hand (R5, D8). The machine never uses it: its lengths are unbounded.
`Safety.lean` states with it when a launch is in width. Log entry 15. -/
opaque idxWidth : Nat

/-- Free value: the byte left at an index of a destination window when reset abandons an operation (U9), or that a
host read at an index past the end of a buffer returns, for the draw of that number. Log entries 11 and 24. -/
opaque freeByte : Nat → Nat → Byte

/-- Free value: the code point in these two cases, on the text side. Log entries 11 and 24. -/
opaque freeText : Nat → Nat → CodePoint

/-- Free value: what the host reads in `RESULT` after an operation that ended in error (U10). Log entry 11. -/
opaque freeResult : Nat → Nat

end Config

end Sys2Proof
end

