-- ==== Sys2Proof/Machine/Translate.lean ====
section
/-! DEFINITION. The symbol translation stage (`40_symbol_translation.md`). -/

namespace Sys2Proof.Machine

/-- `ENC_INDEX(c)` (R21). -/
def encLookup (t : Tables) (c : CodePoint) : Option Sym6 := t.lookup c

/-- `XlateIn(c)` (R70). -/
def xlateIn (t : Tables) (c : CodePoint) : Sym6 :=
  match encLookup t c with
  | some s => s
  | none => t.fallback

/-- `XlateOut(s) = SYMTAB[s]` (R71). -/
def xlateOut (t : Tables) (s : Sym6) : CodePoint := t.codeAt s

/-- Slot `s` is assigned (R20). -/
def slotAssigned (t : Tables) (s : Sym6) : Bool := t.assignedAt s

/-- The default listing of `ENC_INDEX` (R21, D6): the assigned slots in table order, each with the code point it
holds, so that the first listed slot of a code point is its first occurrence. -/
def defaultEncIndex (t : TableData) : List (CodePoint × Sym6) :=
  slots.filterMap fun s => if t.assignedAt s then some (t.codeAt s, s) else none

end Sys2Proof.Machine
end

