-- ==== Sys2Proof/Machine/GroupFormat.lean ====
section
/-! DEFINITION. The packed data format: the bit fields of a byte and of a symbol (`00_scope.md` rule R6), the lanes of a
group (`20_memory.md` rule R31, `30_encoding.md` rule R56), and the functions `Pack` and `Unpack` in closed form
(`41_pack_encode.md` rule R85, `42_unpack_decode.md` rule R104). -/

namespace Sys2Proof.Machine

/-- `s[5:4]`. -/
def symTop2 (s : Sym6) : BitVec 2 := s.extractLsb' 4 2

/-- `s[3:0]`. -/
def symLow4 (s : Sym6) : BitVec 4 := s.extractLsb' 0 4

/-- `s[5:2]`. -/
def symTop4 (s : Sym6) : BitVec 4 := s.extractLsb' 2 4

/-- `s[1:0]`. -/
def symLow2 (s : Sym6) : BitVec 2 := s.extractLsb' 0 2

/-- `b[7:2]`. -/
def byteTop6 (b : Byte) : BitVec 6 := b.extractLsb' 2 6

/-- `b[1:0]`. -/
def byteLow2 (b : Byte) : BitVec 2 := b.extractLsb' 0 2

/-- `b[7:4]`. -/
def byteTop4 (b : Byte) : BitVec 4 := b.extractLsb' 4 4

/-- `b[3:0]`. -/
def byteLow4 (b : Byte) : BitVec 4 := b.extractLsb' 0 4

/-- `b[7:6]`. -/
def byteTop2 (b : Byte) : BitVec 2 := b.extractLsb' 6 2

/-- `b[5:0]`. -/
def byteLow6 (b : Byte) : BitVec 6 := b.extractLsb' 0 6

/-- Lane `b0` of a group (R31): `hi : lo` with `hi` in bits 7:2. -/
def join62 (hi : BitVec 6) (lo : BitVec 2) : Byte := hi ++ lo

/-- Lane `b1` of a group (R31): `hi` in bits 7:4. -/
def join44 (hi lo : BitVec 4) : Byte := hi ++ lo

/-- Lane `b2` of a group (R31): `hi` in bits 7:6. -/
def join26 (hi : BitVec 2) (lo : BitVec 6) : Byte := hi ++ lo

/-- A symbol from its top 2 and its bottom 4 bits (R101). -/
def sym24 (hi : BitVec 2) (lo : BitVec 4) : Sym6 := hi ++ lo

/-- A symbol from its top 4 and its bottom 2 bits (R102). -/
def sym42 (hi : BitVec 4) (lo : BitVec 2) : Sym6 := hi ++ lo

/-- `b[1:0] <- v`, the other bits kept (R7, R81). -/
def setLow2 (b : Byte) (v : BitVec 2) : Byte := join62 (byteTop6 b) v

/-- `b[3:0] <- v`, the other bits kept (R7, R82). -/
def setLow4 (b : Byte) (v : BitVec 4) : Byte := join44 (byteTop4 b) v

/-- `b[5:0] <- v`, the other bits kept (R7, R83). -/
def setLow6 (b : Byte) (v : BitVec 6) : Byte := join26 (byteTop2 b) v

/-- `Pack(S)` (R85): full groups of 4 symbols in 3 bytes, then a partial group with zero padding (R56, R88). -/
def pack : List Sym6 → List Byte
  | [] => []
  | [s0] => [join62 s0 0]
  | [s0, s1] => [join62 s0 (symTop2 s1), join44 (symLow4 s1) 0]
  | [s0, s1, s2] => [join62 s0 (symTop2 s1), join44 (symLow4 s1) (symTop4 s2), join26 (symLow2 s2) 0]
  | s0 :: s1 :: s2 :: s3 :: rest =>
    join62 s0 (symTop2 s1) :: join44 (symLow4 s1) (symTop4 s2) :: join26 (symLow2 s2) s3 :: pack rest

/-- `Unpack(B)` (R104): full groups of 3 bytes give 4 symbols, a remainder of 1 or 2 bytes gives 1 or 2 symbols and its
trailing bits are dropped (R107). -/
def unpack : List Byte → List Sym6
  | [] => []
  | [b0] => [byteTop6 b0]
  | [b0, b1] => [byteTop6 b0, sym24 (byteLow2 b0) (byteTop4 b1)]
  | b0 :: b1 :: b2 :: rest =>
    byteTop6 b0 :: sym24 (byteLow2 b0) (byteTop4 b1) :: sym42 (byteLow4 b1) (byteTop2 b2) :: byteLow6 b2 :: unpack rest

end Sys2Proof.Machine
end

