-- ==== Sys2Proof/Machine/State.lean ====
section
/-! DEFINITION. The state of the engine and of the host that drives it, the reasons a step can stop, and the state
after reset (`10_state.md`, `20_memory.md` rule R30, `70_reset_and_hazards.md` rules R160, R174). -/

namespace Sys2Proof.Machine

/-- One side of a buffer (R23, R30): `size` elements with indices `0 .. size-1`. `cells` lists (index, element) pairs,
indices strictly rising and below `size`, no element zero; an index below `size` that is not listed holds the element
zero. Log entry 7. -/
structure Memory (w : Nat) where
  size : Nat
  cells : List (Nat × BitVec w)
deriving DecidableEq, Repr

/-- A buffer seen from its text side and from its byte side (R23, R32); a buffer the host supplies has one side, the
other has size 0. On the byte side `cells` is a list of `Host.Cell`. -/
structure Buffer where
  text : Memory 21
  bytes : Memory 8
deriving DecidableEq, Repr

/-- No buffer: neither side has an element. -/
def Buffer.absent : Buffer := ⟨⟨0, []⟩, ⟨0, []⟩⟩

/-- Encode is text to bytes, decode is bytes to text (R9, C1). -/
inductive Dir where
  | encode
  | decode
deriving DecidableEq, Repr

/-- What distinguishes the forms of the six operations that take a source buffer (R51, R53, R54). -/
structure OpForm where
  /-- Which side the source is on, and which length function applies. -/
  dir : Dir
  /-- The host supplies the destination (ENCODE_INTO, DECODE_INTO). -/
  into : Bool
  /-- The whole-buffer form. -/
  whole : Bool
deriving DecidableEq, Repr

/-- The conversion in progress: its operands, sampled once at launch (R52, R53, R171). -/
structure Run where
  dir : Dir
  /-- The destination is the host's buffer, not a fresh one. -/
  into : Bool
  /-- Effective offset (R53). -/
  off : Nat
  /-- Effective count (R53). -/
  cnt : Nat
  /-- Destination base: 0, or `DST_OFF` for the INTO forms (R15, R53). -/
  dbase : Nat
  /-- Number of output elements (R36, R37). -/
  need : Nat
deriving DecidableEq, Repr

/-- Operand registers the host writes (R11, numbers 0 to 4). -/
inductive OperandReg where
  | srcLen
  | srcOff
  | srcCnt
  | dstLen
  | dstOff
deriving DecidableEq, Repr

/-- Every register the host can read (R11, R17, R18, R19). -/
inductive Reg where
  | operand (r : OperandReg)
  | result
  | cmd
  | status
  | bufctl
deriving DecidableEq, Repr

/-- A buffer of the host (R174): the one it supplies as `SRC`, the one it supplies as `DST`, and those it holds besides,
the newest first. Every fresh `DST` becomes one of these when its operation ends. Log entry 26. -/
inductive BufferName where
  | src
  | dst
  | held (n : Nat)
deriving DecidableEq, Repr

/-- What the host puts into a buffer: a text or a string of bytes (R23). -/
inductive Contents where
  | text (elems : List CodePoint)
  | bytes (elems : List Byte)
deriving DecidableEq, Repr

/-- One move of the host (R174). -/
inductive HostMove where
  /-- Write an operand register (R11). -/
  | writeReg (r : OperandReg) (v : Nat)
  /-- Write `BUFCTL` (R19). -/
  | writeBufctl (v : Byte)
  /-- Write `CMD` and launch what it encodes (R17), the operation seen as one indivisible transition (R10). -/
  | writeCmd (w : Byte)
  /-- The same write, the operation seen step by step (R172): the launch now, each step at a later move of the engine. -/
  | startCmd (w : Byte)
  /-- Let the engine move once. -/
  | tick
  /-- Read a register (R11, R17, R18, R19). -/
  | readReg (r : Reg)
  /-- Read element `k` of the text side of a buffer (R174). -/
  | readText (b : BufferName) (k : Nat)
  /-- Read element `k` of its byte side. -/
  | readByte (b : BufferName) (k : Nat)
  /-- Create a buffer that holds these elements; it becomes the newest the host holds (R174). -/
  | create (c : Contents)
  /-- Fill a buffer: it now holds these elements. For `SRC` and `DST` this is how the host supplies one (R162, R174). -/
  | fill (b : BufferName) (c : Contents)
  /-- Fill `target` with what `source` holds. -/
  | copy (source target : BufferName)
  /-- Change element `k` of the text side of a buffer. -/
  | writeText (b : BufferName) (k : Nat) (v : CodePoint)
  /-- Change element `k` of its byte side. -/
  | writeByte (b : BufferName) (k : Nat) (v : Byte)
  /-- Discard a buffer (R174). -/
  | discard (b : BufferName)
  /-- Say which (source index, destination index) pairs share storage: where the host has put its buffers (R164). -/
  | placeBuffers (shared : List (Nat × Nat))
  /-- Reset the engine (R160). -/
  | reset
deriving DecidableEq, Repr

/-- Which registers the host has written since reset (R12; the premise OperandsWritten of R163). -/
structure Written where
  srcLen : Bool
  srcOff : Bool
  srcCnt : Bool
  dstLen : Bool
  dstOff : Bool
  bufctl : Bool
deriving DecidableEq, Repr

/-- The state: the engine's registers, sequencing state and tables, the buffers, and the host. -/
structure State where
  /-- `SRC_LEN`, register 0 (R11). -/
  srcLen : Nat
  /-- `SRC_OFF`, register 1 (R11). -/
  srcOff : Nat
  /-- `SRC_CNT`, register 2 (R11). -/
  srcCnt : Nat
  /-- `DST_LEN`, register 3 (R11). -/
  dstLen : Nat
  /-- `DST_OFF`, register 4 (R11). -/
  dstOff : Nat
  /-- `RESULT`, register 5 (R11). -/
  result : Nat
  /-- `CMD`, register 8 (R17). -/
  cmd : Byte
  /-- `STATUS`, register 9 (R18). -/
  status : Byte
  /-- `BUFCTL`, register 10 (R19). -/
  bufctl : Byte
  /-- Which host-written registers have been written since reset (R12). -/
  written : Written
  /-- `IDX` (R13). -/
  idx : Nat
  /-- `OUTPOS` (R15). -/
  outpos : Nat
  /-- The operands of the conversion in progress, or of the last one (R52). -/
  run : Run
  /-- `SYMTAB`, `ENC_INDEX`, `FALLBACK_INDEX` (R20, R21, R22). -/
  tables : Tables
  /-- `SRC` (R23). -/
  src : Buffer
  /-- The `DST` the host supplies (R37). -/
  dst : Buffer
  /-- The fresh `DST` of the allocating form in progress (R36); absent when none is. -/
  fresh : Buffer
  /-- The host's other buffers, the newest first: those it created, and every fresh `DST` since its operation ended
  without error (R174). -/
  held : List Buffer
  /-- Pairs (index in `SRC`, index in the host's `DST`) that share storage (R164). -/
  aliases : List (Nat × Nat)
  /-- The host's moves to come, the next one first (R10, R174). -/
  host : List HostMove
  /-- What the host's last read returned. -/
  hostRead : Nat
  /-- How many free values have been drawn. -/
  draws : Nat
deriving DecidableEq, Repr

/-- The two errors an operation can raise (R140). -/
inductive ArgError where
  /-- A required buffer is absent (R141). -/
  | invalidArgument
  /-- The source sub-range or the destination window does not fit (R142, R143). -/
  | outOfRange
deriving DecidableEq, Repr

/-- Why the machine stops with a fault. No launch leads to one: the range checks keep every access inside the buffers
(`20_memory.md` rule R35). -/
inductive Fault where
  /-- A step reads an element of `SRC` that does not exist. Raised by the seven steps. Safe: the machine stops. -/
  | noSourceElement
  /-- A step reads or writes an element of `DST` that does not exist. Raised by the seven steps. Safe: the machine
  stops. -/
  | noDestElement
deriving DecidableEq, Repr

/-- Why a step has no meaning. Each but the first is a case in which the spec says that a model refuses. -/
inductive Refusal where
  /-- The instruction is not modelled. Raised by no arm of `exec` in this model. Safe. -/
  | notModelled (mnemonic : String)
  /-- A reserved command word (R57, U5). Raised by the host moves `writeCmd` and `startCmd`, and by the two Max queries
  on a term with `whole = 1`. Safe. -/
  | reservedCommand
  /-- A launch with any of bits 7:2 of `BUFCTL` set (R19, R57, U5). Raised by the eight operations. Safe. -/
  | reservedBufctl
  /-- A launch while `STATUS.BUSY = 1` (R166, U7). Raised by the eight operations. Safe. -/
  | launchWhileBusy
  /-- A host move other than reading `STATUS` or a held buffer, waiting or reset while `STATUS.BUSY = 1` (R166, U7). Raised by the host
  moves. Safe. -/
  | hostWhileBusy
  /-- A buffer declared present is declared longer than the buffer that exists (R162, U8). Raised by the six operations
  with a source buffer. Safe. -/
  | falseLength
  /-- The destination window and the source range share storage (R164, U6). Raised by ENCODE_INTO and DECODE_INTO.
  Safe. -/
  | overlappingBuffers
  /-- The selector `1 11`, which never occurs (R55). Raised by the engine's move; no state reaches it. Safe. -/
  | noSuchSelector
deriving DecidableEq, Repr

/-- What every step and every meaning answers. -/
abbrev Outcome := Host.Outcome State Fault Refusal

/-- The machine right after reset (R25, R160, R161): idle, no error recorded, no operation in progress, no buffer, the
tables at their configured constants. The registers the spec leaves unspecified hold 0 and are marked unwritten
(DESIGN CHOICE, log entry 1). The host has no move to make (log entry 4). -/
def State.reset : State where
  srcLen := 0
  srcOff := 0
  srcCnt := 0
  dstLen := 0
  dstOff := 0
  result := 0
  cmd := 0
  status := 0
  bufctl := 0
  written := ⟨false, false, false, false, false, false⟩
  idx := 0
  outpos := 0
  run := ⟨.encode, false, 0, 0, 0, 0⟩
  tables := Config.tables
  src := Buffer.absent
  dst := Buffer.absent
  fresh := Buffer.absent
  held := []
  aliases := []
  host := []
  hostRead := 0
  draws := 0

end Sys2Proof.Machine
end

