-- ==== Sys2Proof/Machine/Flags.lean ====
section
/-! DEFINITION. The fields of `STATUS`, `BUFCTL` and `CMD` (`10_state.md` rules R17 to R19). The engine has no condition
code (R16): these fields are all the flags there are. -/

namespace Sys2Proof.Machine

/-- `STATUS` from its fields (R18): reserved bits 7:3 zero, `BUSY` bit 2, `ERR` bits 1:0. -/
def statusWord (err : BitVec 2) (busy : Bool) : Byte := 0#5 ++ (BitVec.ofBool busy ++ err)

/-- `STATUS.ERR` (R18). -/
def statusErr (status : Byte) : BitVec 2 := status.extractLsb' 0 2

/-- `STATUS.BUSY` (R18). -/
def statusBusy (status : Byte) : Bool := status.getLsbD 2

/-- `STATUS` bits 7:3, which read as 0 (R18). -/
def statusReserved (status : Byte) : BitVec 5 := status.extractLsb' 3 5

/-- The engine is busy: `STATUS.BUSY = 1` (R18). -/
def busy (s : State) : Bool := statusBusy s.status

/-- `STATUS.BUSY <- 1`, `ERR` kept (launch; log entry 14). -/
def setBusy (s : State) : State := { s with status := statusWord (statusErr s.status) true }

/-- `STATUS.ERR <- err ; STATUS.BUSY <- 0` (end of an operation, R147, R173). -/
def setEnded (err : BitVec 2) (s : State) : State := { s with status := statusWord err false }

/-- `BUFCTL.SRC_PRESENT` (R19). -/
def srcPresent (s : State) : Bool := s.bufctl.getLsbD 0

/-- `BUFCTL.DST_PRESENT` (R19). -/
def dstPresent (s : State) : Bool := s.bufctl.getLsbD 1

/-- `BUFCTL` bits 7:2, which must be written 0 (R19). -/
def bufctlReserved (s : State) : BitVec 6 := s.bufctl.extractLsb' 2 6

/-- The cause code of an error (R140, D11). -/
def errCode : ArgError → BitVec 2
  | .invalidArgument => 1
  | .outOfRange => 2

end Sys2Proof.Machine
end

