-- ==== Sys2Proof/Machine/Ops.lean ====
section
/-! DEFINITION. The named operations over buffers and state: reading and writing one element, the destination of the
conversion in progress, sequencing, and raising an error (`20_memory.md`, `60_exceptions.md` rule R147). -/

namespace Sys2Proof.Machine

/-- The element listed for `k`, zero where none is. -/
def cellsRead {w : Nat} : List (Nat × BitVec w) → Nat → BitVec w
  | [], _ => 0
  | (a, v) :: rest, k => if a = k then v else cellsRead rest k

/-- Put `v` at `k`, keeping the listing rising and free of zeros. -/
def cellsWrite {w : Nat} : List (Nat × BitVec w) → Nat → BitVec w → List (Nat × BitVec w)
  | [], k, v => if v = 0 then [] else [(k, v)]
  | (a, x) :: rest, k, v =>
    if k < a then (if v = 0 then (a, x) :: rest else (k, v) :: (a, x) :: rest)
    else if k = a then (if v = 0 then rest else (k, v) :: rest)
    else (a, x) :: cellsWrite rest k v

/-- The listing of a sequence of elements from index `k` on. -/
def cellsOfList {w : Nat} : Nat → List (BitVec w) → List (Nat × BitVec w)
  | _, [] => []
  | k, v :: rest => if v = 0 then cellsOfList (k + 1) rest else (k, v) :: cellsOfList (k + 1) rest

/-- The listing is canonical: indices rising from `lo`, all below `size`, no zero element. -/
def cellsWf {w : Nat} (size : Nat) : Nat → List (Nat × BitVec w) → Bool
  | _, [] => true
  | lo, (a, v) :: rest => decide (lo ≤ a) && decide (a < size) && decide (v ≠ 0) && cellsWf size (a + 1) rest

/-- The canonical form of one side of a buffer. -/
def Memory.wf {w : Nat} (m : Memory w) : Bool := cellsWf m.size 0 m.cells

/-- `MemRead(space, k)` (R7, R34): one whole element; none where the element does not exist. -/
def Memory.read {w : Nat} (m : Memory w) (k : Nat) : Option (BitVec w) :=
  if k < m.size then some (cellsRead m.cells k) else none

/-- `MemWrite(space, k, v)` (R7, R34) at an element that exists; nothing happens at one that does not. -/
def Memory.put {w : Nat} (m : Memory w) (k : Nat) (v : BitVec w) : Memory w :=
  if k < m.size then { m with cells := cellsWrite m.cells k v } else m

/-- A buffer side of `n` elements, all zero (R36: what a fresh buffer starts at is not observable). -/
def Memory.zeros {w : Nat} (n : Nat) : Memory w := ⟨n, []⟩

/-- A buffer side that holds these elements. -/
def Memory.ofList {w : Nat} (elems : List (BitVec w)) : Memory w := ⟨elems.length, cellsOfList 0 elems⟩

/-- The elements of `m` from index `off` on, `cnt` of them. -/
def Memory.slice {w : Nat} (m : Memory w) (off cnt : Nat) : List (BitVec w) :=
  (List.range cnt).map fun j => cellsRead m.cells (off + j)

/-- All the elements of `m`. -/
def Memory.toList {w : Nat} (m : Memory w) : List (BitVec w) := m.slice 0 m.size

/-- Both sides of a buffer are canonical. -/
def Buffer.wf (b : Buffer) : Bool := b.text.wf && b.bytes.wf

/-- The buffer the host's contents make (R23). -/
def bufferOf : Contents → Buffer
  | .text elems => ⟨Memory.ofList elems, Memory.zeros 0⟩
  | .bytes elems => ⟨Memory.zeros 0, Memory.ofList elems⟩

/-- A fresh destination of `need` elements: bytes for an encode, text for a decode (R23, R36). -/
def freshBuffer : Dir → Nat → Buffer
  | .encode, need => ⟨Memory.zeros 0, Memory.zeros need⟩
  | .decode, need => ⟨Memory.zeros need, Memory.zeros 0⟩

/-- How many elements the side of `SRC` that a conversion in this direction reads has (R23). -/
def sourceSize (dir : Dir) (b : Buffer) : Nat :=
  match dir with
  | .encode => b.text.size
  | .decode => b.bytes.size

/-- How many elements the side of `DST` that such a conversion writes has (R23). -/
def destSize (dir : Dir) (b : Buffer) : Nat :=
  match dir with
  | .encode => b.bytes.size
  | .decode => b.text.size

/-- The destination of the conversion in progress: the host's buffer for an INTO form, the fresh one for an allocating
form (R23, R36, R37). -/
def State.dest (s : State) : Buffer := if s.run.into then s.dst else s.fresh

/-- Replace that destination. -/
def State.setDest (s : State) (b : Buffer) : State :=
  if s.run.into then { s with dst := b } else { s with fresh := b }

/-- Write one byte of the destination. -/
def State.putDestByte (s : State) (k : Nat) (v : Byte) : State :=
  s.setDest { s.dest with bytes := s.dest.bytes.put k v }

/-- Write one code point of the destination. -/
def State.putDestText (s : State) (k : Nat) (c : CodePoint) : State :=
  s.setDest { s.dest with text := s.dest.text.put k c }

/-- Go on from a next state; a fault or a refusal ends it. -/
def andThen (o : Outcome) (f : State → Outcome) : Outcome :=
  match o with
  | .next s => f s
  | .fault r => .fault r
  | .refused r => .refused r

/-- Do `f` `n` times. -/
def repeatStep (f : State → Outcome) : Nat → State → Outcome
  | 0, s => .next s
  | n + 1, s => andThen (f s) (repeatStep f n)

/-- `MemRead(SRC, k)` on the text side. -/
def withSrcText (s : State) (k : Nat) (f : CodePoint → Outcome) : Outcome :=
  match s.src.text.read k with
  | some c => f c
  | none => .fault .noSourceElement

/-- `MemRead(SRC, k)` on the byte side. -/
def withSrcByte (s : State) (k : Nat) (f : Byte → Outcome) : Outcome :=
  match s.src.bytes.read k with
  | some b => f b
  | none => .fault .noSourceElement

/-- `MemRead(SRC, k - 1)` on the byte side: the previous byte of decode phases 1 and 2 (R35). -/
def withPrevByte (s : State) (k : Nat) (f : Byte → Outcome) : Outcome :=
  match k with
  | 0 => .fault .noSourceElement
  | k + 1 => withSrcByte s k f

/-- The read half of a bit-field update of `DST[k]` (R30, R34). -/
def withDestByte (s : State) (k : Nat) (f : Byte → Outcome) : Outcome :=
  match s.dest.bytes.read k with
  | some b => f b
  | none => .fault .noDestElement

/-- `MemWrite(DST, k, v)` on the byte side. -/
def writeDestByte (s : State) (k : Nat) (v : Byte) : Outcome :=
  if k < s.dest.bytes.size then .next (s.putDestByte k v) else .fault .noDestElement

/-- `MemWrite(DST, k, c)` on the text side. -/
def writeDestText (s : State) (k : Nat) (c : CodePoint) : Outcome :=
  if k < s.dest.text.size then .next (s.putDestText k c) else .fault .noDestElement

/-- `IDX <- IDX + 1` (R13). -/
def advanceIdx (s : State) : State := { s with idx := s.idx + 1 }

/-- `OUTPOS <- OUTPOS + n` (R15). -/
def advanceOutpos (n : Nat) (s : State) : State := { s with outpos := s.outpos + n }

/-- `raise E` (R147): the one way an error is taken. `STATUS` records the cause and the engine is idle; nothing else
changes, and control goes nowhere. There is no return from it: the engine accepts the next launch (R148). -/
def raise (e : ArgError) (s : State) : Outcome := .next (setEnded (errCode e) s)

/-- At the end of an allocating form its fresh `DST` "is the host's from now on" (R174). -/
def deliver (s : State) : State :=
  if s.run.into then s else { s with held := s.fresh :: s.held, fresh := Buffer.absent }

/-- A buffer of the host; absent where it holds none under that name. -/
def State.buffer (s : State) (b : BufferName) : Buffer :=
  match b with
  | .src => s.src
  | .dst => s.dst
  | .held n => s.held.getD n Buffer.absent

/-- Another buffer in the place of that one. New storage in the place of `SRC` or `DST` shares none with the other until
the host says so (log entry 8). Where the host holds no buffer under that name nothing happens. -/
def State.replace (s : State) (b : BufferName) (v : Buffer) : State :=
  match b with
  | .src => { s with src := v, aliases := [] }
  | .dst => { s with dst := v, aliases := [] }
  | .held n => { s with held := s.held.set n v }

/-- The host holds no buffer under that name any more. -/
def State.discard (s : State) (b : BufferName) : State :=
  match b with
  | .src => s.replace .src Buffer.absent
  | .dst => s.replace .dst Buffer.absent
  | .held n => { s with held := s.held.eraseIdx n }

/-- The end of an operation without error: `RESULT <- n ; STATUS.ERR <- 0 ; STATUS.BUSY <- 0`. -/
def finishWith (n : Nat) (s : State) : Outcome := .next { setEnded 0 s with result := n }

end Sys2Proof.Machine
end

