-- ==== Sys2Proof/Machine/Operands.lean ====
section
/-! DEFINITION. Operands of a launch: the length functions (`43_length_queries.md`), effective offset and count
(`30_encoding.md` rules R52 to R54), the checks (`60_exceptions.md` rules R141 to R146) and the premises a model refuses
without (`70_reset_and_hazards.md` rules R162 to R166). -/

namespace Sys2Proof.Machine

/-- `ByteCount(n) = ceil(6n/8) = (6n + 7) div 8` (R120). -/
def byteCount (n : Nat) : Nat := (6 * n + 7) / 8

/-- `CharCount(m) = floor(8m/6) = (8m) div 6` (R121). -/
def charCount (m : Nat) : Nat := (8 * m) / 6

/-- The number of output elements for `cnt` source elements (R36). -/
def needOf (dir : Dir) (cnt : Nat) : Nat :=
  match dir with
  | .encode => byteCount cnt
  | .decode => charCount cnt

/-- Effective offset (R53). -/
def effOff (whole : Bool) (s : State) : Nat := if whole then 0 else s.srcOff

/-- Effective count (R53). -/
def effCnt (whole : Bool) (s : State) : Nat := if whole then s.srcLen else s.srcCnt

/-- Destination base (R15, R53). -/
def destBase (into : Bool) (s : State) : Nat := if into then s.dstOff else 0

/-- `off > len or cnt > len - off`, the range comparison of rules R142 and R143. -/
def rangeFails (off cnt len : Nat) : Bool := decide (off > len) || decide (cnt > len - off)

/-- The checks of rule R146 in their order; the first that fails determines the error. -/
def checkFailure (f : OpForm) (s : State) : Option ArgError :=
  if !srcPresent s then some .invalidArgument
  else if f.into && !dstPresent s then some .invalidArgument
  else if rangeFails (effOff f.whole s) (effCnt f.whole s) s.srcLen then some .outOfRange
  else if f.into && rangeFails s.dstOff (needOf f.dir (effCnt f.whole s)) s.dstLen then some .outOfRange
  else none

/-- The buffers declared present are at least as long as declared (R162, U8). -/
def lengthsTrue (f : OpForm) (s : State) : Bool :=
  (!srcPresent s || decide (s.srcLen ≤ sourceSize f.dir s.src)) &&
    (!f.into || !dstPresent s || decide (s.dstLen ≤ destSize f.dir s.dst))

/-- The pair says that an element of the source range and one of the destination window share storage. -/
def pairOverlaps (off cnt dbase need : Nat) (p : Nat × Nat) : Bool :=
  decide (off ≤ p.1) && decide (p.1 < off + cnt) && decide (dbase ≤ p.2) && decide (p.2 < dbase + need)

/-- The destination window shares no storage with the source range (R164, U6). An allocating form cannot overlap
(R36), and an absent buffer has no storage. -/
def disjoint (f : OpForm) (s : State) : Bool :=
  !f.into || !srcPresent s || !dstPresent s ||
    !s.aliases.any (pairOverlaps (effOff f.whole s) (effCnt f.whole s) s.dstOff (needOf f.dir (effCnt f.whole s)))

/-- The launch premises that a model refuses without (R163): Idle (U7), reserved `BUFCTL` bits zero (U5), LengthsTrue
(U8), Disjoint (U6). They come before the checks: log entry 9. -/
def premiseFailure (f : OpForm) (s : State) : Option Refusal :=
  if busy s then some .launchWhileBusy
  else if bufctlReserved s ≠ 0 then some .reservedBufctl
  else if !lengthsTrue f s then some .falseLength
  else if !disjoint f s then some .overlappingBuffers
  else none

/-- The operands of a conversion, sampled at its launch (R52, R53, R171). -/
def sample (f : OpForm) (s : State) : Run :=
  ⟨f.dir, f.into, effOff f.whole s, effCnt f.whole s, destBase f.into s, needOf f.dir (effCnt f.whole s)⟩

/-- The state in which the steps of a conversion begin (R86, R87, R105, R106): `BUSY`, the operands sampled, a fresh
destination for an allocating form, `IDX` and `OUTPOS` zero. -/
def beginOp (f : OpForm) (s : State) : State :=
  { setBusy s with
    run := sample f s
    idx := 0
    outpos := 0
    fresh := if f.into then s.fresh else freshBuffer f.dir (needOf f.dir (effCnt f.whole s)) }

/-- The end of a conversion: `RESULT <- need ; STATUS.ERR <- 0 ; STATUS.BUSY <- 0`, a fresh destination handed over. -/
def finishOp (s : State) : Outcome := finishWith s.run.need (deliver s)

/-- The launch of a conversion up to its first step. -/
def launch (f : OpForm) (s : State) : Outcome :=
  match premiseFailure f s with
  | some r => .refused r
  | none =>
    match checkFailure f s with
    | some e => raise e s
    | none => .next (beginOp f s)

/-- A whole conversion as one transition (R10): launch, one step per source element, end. -/
def convert (f : OpForm) (stepOf : State → Outcome) (s : State) : Outcome :=
  match premiseFailure f s with
  | some r => .refused r
  | none =>
    match checkFailure f s with
    | some e => raise e s
    | none => andThen (repeatStep stepOf (effCnt f.whole s) (beginOp f s)) finishOp

/-- A query over a source buffer (R122, R123): the same checks, then the length; no element is read. -/
def query (f : OpForm) (s : State) : Outcome :=
  match premiseFailure f s with
  | some r => .refused r
  | none =>
    match checkFailure f s with
    | some e => raise e s
    | none => finishWith (needOf f.dir (effCnt f.whole s)) s

/-- A Max query (R124, R125): no buffer is needed and no presence bit counts (R52, R54); `whole = 1` is reserved (R57), and
so is a launch with any of the reserved bits of `BUFCTL` set (R19, R57, U5; log entry 10). -/
def maxQuery (dir : Dir) (whole : Bool) (s : State) : Outcome :=
  if whole then .refused .reservedCommand
  else if busy s then .refused .launchWhileBusy
  else if bufctlReserved s ≠ 0 then .refused .reservedBufctl
  else finishWith (needOf dir s.srcCnt) s

end Sys2Proof.Machine
end

