-- ==== Sys2Proof/Machine/Packing.lean ====
section
/-! DEFINITION. The packing (encode) family: ENC.P0 to ENC.P3, ENCODE, ENCODE_INTO (`41_pack_encode.md`). -/

namespace Sys2Proof.Machine

/-- `s <- XlateIn(MemRead(SRC, off + IDX))`, the first line of every encode step. -/
def withSymbol (s : State) (f : Sym6 → Outcome) : Outcome :=
  withSrcText s (s.run.off + s.idx) fun c => f (xlateIn s.tables c)

/-- `o = dbase + OUTPOS` (R15): the first byte of the group during encode, the next symbol during decode. -/
def outAddr (s : State) : Nat := s.run.dbase + s.outpos

/-- ENC.P0 (R80). -/
def execEncP0 (s : State) : Outcome :=
  withSymbol s fun x =>
    andThen (writeDestByte s (outAddr s) (join62 x 0)) fun s1 =>
    .next (advanceIdx s1)

/-- ENC.P1 (R81). -/
def execEncP1 (s : State) : Outcome :=
  withSymbol s fun x =>
    withDestByte s (outAddr s) fun b =>
    andThen (writeDestByte s (outAddr s) (setLow2 b (symTop2 x))) fun s1 =>
    andThen (writeDestByte s1 (outAddr s + 1) (join44 (symLow4 x) 0)) fun s2 =>
    .next (advanceIdx s2)

/-- ENC.P2 (R82). -/
def execEncP2 (s : State) : Outcome :=
  withSymbol s fun x =>
    withDestByte s (outAddr s + 1) fun b =>
    andThen (writeDestByte s (outAddr s + 1) (setLow4 b (symTop4 x))) fun s1 =>
    andThen (writeDestByte s1 (outAddr s + 2) (join26 (symLow2 x) 0)) fun s2 =>
    .next (advanceIdx s2)

/-- ENC.P3 (R83). -/
def execEncP3 (s : State) : Outcome :=
  withSymbol s fun x =>
    withDestByte s (outAddr s + 2) fun b =>
    andThen (writeDestByte s (outAddr s + 2) (setLow6 b x)) fun s1 =>
    .next (advanceIdx (advanceOutpos 3 s1))

/-- "perform ENC.P(IDX mod 4)" (R14, R86). -/
def encStep (s : State) : Outcome :=
  if s.idx % 4 = 0 then execEncP0 s
  else if s.idx % 4 = 1 then execEncP1 s
  else if s.idx % 4 = 2 then execEncP2 s
  else execEncP3 s

/-- ENCODE (R86). -/
def execEncode (whole : Bool) (s : State) : Outcome := convert ⟨.encode, false, whole⟩ encStep s

/-- ENCODE_INTO (R87). -/
def execEncodeInto (whole : Bool) (s : State) : Outcome := convert ⟨.encode, true, whole⟩ encStep s

end Sys2Proof.Machine
end

