-- ==== Sys2Proof/Machine/Queries.lean ====
section
/-! DEFINITION. The four length queries (`43_length_queries.md`). -/

namespace Sys2Proof.Machine

/-- GETBYTECOUNT (R122). -/
def execGetByteCount (whole : Bool) (s : State) : Outcome := query ⟨.encode, false, whole⟩ s

/-- GETCHARCOUNT (R123). -/
def execGetCharCount (whole : Bool) (s : State) : Outcome := query ⟨.decode, false, whole⟩ s

/-- GETMAXBYTECOUNT (R124). -/
def execGetMaxByteCount (whole : Bool) (s : State) : Outcome := maxQuery .encode whole s

/-- GETMAXCHARCOUNT (R125). -/
def execGetMaxCharCount (whole : Bool) (s : State) : Outcome := maxQuery .decode whole s

end Sys2Proof.Machine
end

