-- ==== Sys2Proof/Machine/Unpacking.lean ====
section
/-! DEFINITION. The unpacking (decode) family: DEC.P0 to DEC.P2, DECODE, DECODE_INTO (`42_unpack_decode.md`). -/

namespace Sys2Proof.Machine

/-- `emit v`: `MemWrite(DST, dbase + OUTPOS, XlateOut(v)) ; OUTPOS <- OUTPOS + 1`. -/
def emitSymbol (v : Sym6) (s : State) : Outcome :=
  andThen (writeDestText s (outAddr s) (xlateOut s.tables v)) fun s1 => .next (advanceOutpos 1 s1)

/-- DEC.P0 (R100). -/
def execDecP0 (s : State) : Outcome :=
  withSrcByte s (s.run.off + s.idx) fun b =>
    andThen (emitSymbol (byteTop6 b) s) fun s1 =>
    .next (advanceIdx s1)

/-- DEC.P1 (R101). -/
def execDecP1 (s : State) : Outcome :=
  withSrcByte s (s.run.off + s.idx) fun b =>
    withPrevByte s (s.run.off + s.idx) fun p =>
    andThen (emitSymbol (sym24 (byteLow2 p) (byteTop4 b)) s) fun s1 =>
    .next (advanceIdx s1)

/-- DEC.P2 (R102). -/
def execDecP2 (s : State) : Outcome :=
  withSrcByte s (s.run.off + s.idx) fun b =>
    withPrevByte s (s.run.off + s.idx) fun p =>
    andThen (emitSymbol (sym42 (byteLow4 p) (byteTop2 b)) s) fun s1 =>
    andThen (emitSymbol (byteLow6 b) s1) fun s2 =>
    .next (advanceIdx s2)

/-- "perform DEC.P(IDX mod 3)" (R14, R105). -/
def decStep (s : State) : Outcome :=
  if s.idx % 3 = 0 then execDecP0 s
  else if s.idx % 3 = 1 then execDecP1 s
  else execDecP2 s

/-- DECODE (R105). -/
def execDecode (whole : Bool) (s : State) : Outcome := convert ⟨.decode, false, whole⟩ decStep s

/-- DECODE_INTO (R106). -/
def execDecodeInto (whole : Bool) (s : State) : Outcome := convert ⟨.decode, true, whole⟩ decStep s

end Sys2Proof.Machine
end

