-- ==== Sys2Proof/Machine/Dispatch.lean ====
section
/-! DEFINITION. One arm per instruction (`30_encoding.md` rules R51, R55). -/

namespace Sys2Proof.Machine

def exec (i : Instr) (s : State) : Host.Outcome State Fault Refusal :=
  match i with
  | .encode whole => Sys2Proof.Machine.execEncode whole s
  | .decode whole => Sys2Proof.Machine.execDecode whole s
  | .getByteCount whole => Sys2Proof.Machine.execGetByteCount whole s
  | .getCharCount whole => Sys2Proof.Machine.execGetCharCount whole s
  | .getMaxByteCount whole => Sys2Proof.Machine.execGetMaxByteCount whole s
  | .getMaxCharCount whole => Sys2Proof.Machine.execGetMaxCharCount whole s
  | .encodeInto whole => Sys2Proof.Machine.execEncodeInto whole s
  | .decodeInto whole => Sys2Proof.Machine.execDecodeInto whole s
  | .encP0 => Sys2Proof.Machine.execEncP0 s
  | .encP1 => Sys2Proof.Machine.execEncP1 s
  | .encP2 => Sys2Proof.Machine.execEncP2 s
  | .encP3 => Sys2Proof.Machine.execEncP3 s
  | .decP0 => Sys2Proof.Machine.execDecP0 s
  | .decP1 => Sys2Proof.Machine.execDecP1 s
  | .decP2 => Sys2Proof.Machine.execDecP2 s

end Sys2Proof.Machine
end

