-- ==== Sys2Proof/Machine/HostMoves.lean ====
section
/-! DEFINITION. The two agents' moves (`10_state.md` rule R10, `70_reset_and_hazards.md` rule R174): what the host can do,
what the engine does while it is busy, reset, and who moves next. -/

namespace Sys2Proof.Machine

/-- The form of an operation with a source buffer whose steps the engine performs; none for the others. -/
def conversionForm : Instr → Option OpForm
  | .encode whole => some ⟨.encode, false, whole⟩
  | .decode whole => some ⟨.decode, false, whole⟩
  | .getByteCount _ => none
  | .getCharCount _ => none
  | .getMaxByteCount _ => none
  | .getMaxCharCount _ => none
  | .encodeInto whole => some ⟨.encode, true, whole⟩
  | .decodeInto whole => some ⟨.decode, true, whole⟩
  | .encP0 => none
  | .encP1 => none
  | .encP2 => none
  | .encP3 => none
  | .decP0 => none
  | .decP1 => none
  | .decP2 => none

/-- The launch of an operation seen step by step: a conversion stops before its first step, a query is over at once
(R172: "A conversion takes exactly `cnt` steps ...; a query takes none"). -/
def startOp (i : Instr) (s : State) : Outcome :=
  match conversionForm i with
  | some f => launch f s
  | none => exec i s

/-- The step selector `d pp` (R14, R55). -/
def selector (s : State) : BitVec 3 :=
  match s.run.dir with
  | .encode => 0#1 ++ BitVec.ofNat 2 (s.idx % 4)
  | .decode => 1#1 ++ BitVec.ofNat 2 (s.idx % 3)

/-- One move of a busy engine: the step the selector picks while `IDX < cnt`, then the end of the operation (R13). -/
def engineMove (s : State) : Outcome :=
  if s.idx < s.run.cnt then
    match decode (.step3 (selector s)) with
    | .ok i => exec i s
    | .error _ => .refused .noSuchSelector
  else finishOp s

/-- The host's write of an operand register (R11). -/
def writeOperand (r : OperandReg) (v : Nat) (s : State) : State :=
  match r with
  | .srcLen => { s with srcLen := v, written := { s.written with srcLen := true } }
  | .srcOff => { s with srcOff := v, written := { s.written with srcOff := true } }
  | .srcCnt => { s with srcCnt := v, written := { s.written with srcCnt := true } }
  | .dstLen => { s with dstLen := v, written := { s.written with dstLen := true } }
  | .dstOff => { s with dstOff := v, written := { s.written with dstOff := true } }

/-- The number of a register (R11, R17, R18, R19); a numbering, not a bus address (R38). -/
def regNumber : Reg → Nat
  | .operand .srcLen => 0
  | .operand .srcOff => 1
  | .operand .srcCnt => 2
  | .operand .dstLen => 3
  | .operand .dstOff => 4
  | .result => 5
  | .cmd => 8
  | .status => 9
  | .bufctl => 10

/-- The value a register holds. -/
def regValue (r : Reg) (s : State) : Nat :=
  match r with
  | .operand .srcLen => s.srcLen
  | .operand .srcOff => s.srcOff
  | .operand .srcCnt => s.srcCnt
  | .operand .dstLen => s.dstLen
  | .operand .dstOff => s.dstOff
  | .result => s.result
  | .cmd => s.cmd.toNat
  | .status => s.status.toNat
  | .bufctl => s.bufctl.toNat

/-- What the host reads in a register: what it holds, but a free value for `RESULT` after an operation that ended in
error, which the host must not use (U10; log entry 11). -/
def hostReadReg (r : Reg) (s : State) : State :=
  if r = .result ∧ statusErr s.status ≠ 0 then
    { s with hostRead := Config.freeResult s.draws, draws := s.draws + 1 }
  else { s with hostRead := regValue r s }

/-- Free bytes at the `n` indices from `base` on. -/
def freeBytes (draw base : Nat) : Nat → Memory 8 → Memory 8
  | 0, m => m
  | n + 1, m => freeBytes draw base n (m.put (base + n) (Config.freeByte draw (base + n)))

/-- Free code points at the `n` indices from `base` on. -/
def freeTexts (draw base : Nat) : Nat → Memory 21 → Memory 21
  | 0, m => m
  | n + 1, m => freeTexts draw base n (m.put (base + n) (Config.freeText draw (base + n)))

/-- Abandon the conversion in progress (R160, U9): the window of a supplied destination holds any values, a fresh buffer
is never delivered. -/
def abandon (s : State) : State :=
  if s.run.into then
    match s.run.dir with
    | .encode =>
      { s with dst := { s.dst with bytes := freeBytes s.draws s.run.dbase s.run.need s.dst.bytes }, draws := s.draws + 1 }
    | .decode =>
      { s with dst := { s.dst with text := freeTexts s.draws s.run.dbase s.run.need s.dst.text }, draws := s.draws + 1 }
  else { s with fresh := Buffer.absent }

/-- The registers at their reset values; the tables and the host's side are not touched by reset (R25, R161). -/
def resetRegisters (s : State) : State :=
  { State.reset with
    tables := s.tables
    src := s.src
    dst := s.dst
    fresh := s.fresh
    held := s.held
    aliases := s.aliases
    host := s.host
    hostRead := s.hostRead
    draws := s.draws }

/-- Reset (R160). -/
def resetEngine (s : State) : State := resetRegisters (if busy s then abandon s else s)

/-- A write of `CMD` with the operation as one transition (R10, R17). -/
def writeCmd (w : Byte) (s : State) : Outcome :=
  match decode (.cmd8 w) with
  | .ok i => exec i { s with cmd := w }
  | .error _ => .refused .reservedCommand

/-- The same write with the operation seen step by step. -/
def startCmd (w : Byte) (s : State) : Outcome :=
  match decode (.cmd8 w) with
  | .ok i => startOp i { s with cmd := w }
  | .error _ => .refused .reservedCommand

/-- What the host gets from an element that exists; from one that does not, a free value (log entry 24). -/
def hostReadElem {w : Nat} (elem : Option (BitVec w)) (free : BitVec w) (s : State) : State :=
  match elem with
  | some v => { s with hostRead := v.toNat }
  | none => { s with hostRead := free.toNat, draws := s.draws + 1 }

/-- The host reads element `k` of the text side of a buffer. -/
def hostReadText (b : BufferName) (k : Nat) (s : State) : State :=
  hostReadElem ((s.buffer b).text.read k) (Config.freeText s.draws k) s

/-- The host reads element `k` of the byte side of a buffer. -/
def hostReadByte (b : BufferName) (k : Nat) (s : State) : State :=
  hostReadElem ((s.buffer b).bytes.read k) (Config.freeByte s.draws k) s

/-- The host changes one element of the text side of a buffer; an element that does not exist is not changed. -/
def hostWriteText (b : BufferName) (k : Nat) (v : CodePoint) (s : State) : State :=
  s.replace b { s.buffer b with text := (s.buffer b).text.put k v }

/-- The host changes one element of the byte side of a buffer. -/
def hostWriteByte (b : BufferName) (k : Nat) (v : Byte) (s : State) : State :=
  s.replace b { s.buffer b with bytes := (s.buffer b).bytes.put k v }

/-- A move of the host while the engine is idle (R174). -/
def hostMoveIdle (m : HostMove) (s : State) : Outcome :=
  match m with
  | .writeReg r v => .next (writeOperand r v s)
  | .writeBufctl v => .next { s with bufctl := v, written := { s.written with bufctl := true } }
  | .writeCmd w => writeCmd w s
  | .startCmd w => startCmd w s
  | .tick => .next s
  | .readReg r => .next (hostReadReg r s)
  | .readText b k => .next (hostReadText b k s)
  | .readByte b k => .next (hostReadByte b k s)
  | .create c => .next { s with held := bufferOf c :: s.held }
  | .fill b c => .next (s.replace b (bufferOf c))
  | .copy source target => .next (s.replace target (s.buffer source))
  | .writeText b k v => .next (hostWriteText b k v s)
  | .writeByte b k v => .next (hostWriteByte b k v s)
  | .discard b => .next (s.discard b)
  | .placeBuffers shared => .next { s with aliases := shared }
  | .reset => .next (resetEngine s)

/-- The buffer is handed over to the engine for the operation (R174, launch). -/
def handedOver : BufferName → Bool
  | .src => true
  | .dst => true
  | .held _ => false

/-- A move of the host while the engine is busy: it may wait, read `STATUS`, or read a buffer it has not handed over (log
entry 26); a reset abandons the operation (R160, U9; log entry 11); anything else has no meaning (R166, R174, U7). -/
def hostMoveBusy (m : HostMove) (s : State) : Outcome :=
  match m with
  | .writeReg _ _ => .refused .hostWhileBusy
  | .writeBufctl _ => .refused .hostWhileBusy
  | .writeCmd _ => .refused .hostWhileBusy
  | .startCmd _ => .refused .hostWhileBusy
  | .tick => engineMove s
  | .readReg r => if r = .status then .next (hostReadReg r s) else .refused .hostWhileBusy
  | .readText b k => if handedOver b then .refused .hostWhileBusy else .next (hostReadText b k s)
  | .readByte b k => if handedOver b then .refused .hostWhileBusy else .next (hostReadByte b k s)
  | .create _ => .refused .hostWhileBusy
  | .fill _ _ => .refused .hostWhileBusy
  | .copy _ _ => .refused .hostWhileBusy
  | .writeText _ _ _ => .refused .hostWhileBusy
  | .writeByte _ _ _ => .refused .hostWhileBusy
  | .discard _ => .refused .hostWhileBusy
  | .placeBuffers _ => .refused .hostWhileBusy
  | .reset => .next (resetEngine s)

/-- Who moves next: the host's next move if it has one; else the engine, which works while it is busy and holds its
registers while it is idle (R155). -/
def nextMove (s : State) : Outcome :=
  match s.host with
  | [] => if busy s then engineMove s else .next s
  | m :: rest => if busy s then hostMoveBusy m { s with host := rest } else hostMoveIdle m { s with host := rest }

/-- The engine idle and the host about to write `w` to `CMD`. -/
def withCommand (s : State) (w : Byte) : State :=
  { s with status := statusWord (statusErr s.status) false, host := .writeCmd w :: s.host }

/-- `m` with at least `n` elements. -/
def Memory.atLeast {w : Nat} (m : Memory w) (n : Nat) : Memory w := { m with size := max m.size n }

/-- The engine busy with an allocating conversion whose next step is the one `sel` selects: `IDX` is its phase, the first
group is in progress and this is the last source element. -/
def withSelector (s : State) (sel : BitVec 3) : State :=
  let phase := (sel.extractLsb' 0 2).toNat
  let dir : Dir := if sel.getLsbD 2 then .decode else .encode
  let need := needOf dir (phase + 1)
  { s with
    status := statusWord (statusErr s.status) true
    run := ⟨dir, false, 0, phase + 1, 0, need⟩
    idx := phase
    outpos := if sel.getLsbD 2 then phase else 0
    src := ⟨s.src.text.atLeast (phase + 1), s.src.bytes.atLeast (phase + 1)⟩
    fresh := freshBuffer dir need
    host := [] }

/-- `s` with the instruction of a table word placed where the next step takes it. -/
def placeCode (s : State) (c : Option Code) : State :=
  match c with
  | some (.cmd8 w) => withCommand s w
  | some (.step3 sel) => withSelector s sel
  | none => s

end Sys2Proof.Machine
end

