-- ==== Sys2Proof/Machine/Step.lean ====
section
/-! DEFINITION. One step of the machine, and where a test places an instruction for the next step to run. -/

namespace Sys2Proof.Machine

/-- One step: the move of whichever agent is next (R10, R174). -/
def step (s : State) : Host.Outcome State Fault Refusal := nextMove s

/-- `s` with the instruction of `nbits` bits and value `w` placed so that the very next step runs it: a command word as
the host's next write of `CMD` to an idle engine, a step selector as the next step of a busy one (log entries 4, 12). -/
def State.withFetchWord (s : State) (nbits w : Nat) : State := placeCode s (tableCode nbits w)

end Sys2Proof.Machine
end

