-- ==== Sys2Proof/Safety.lean ====
section
/-! DEFINITION. The terms claims are stated in: the launch premises of `70_reset_and_hazards.md` rule R163, the conditions of
the checks of `60_exceptions.md`, and the invariant of the machine. -/

namespace Sys2Proof.Machine

/-- The form of an operation that takes a source buffer (R54); none for the Max queries and the steps. -/
def sourceForm : Instr → Option OpForm
  | .encode whole => some ⟨.encode, false, whole⟩
  | .decode whole => some ⟨.decode, false, whole⟩
  | .getByteCount whole => some ⟨.encode, false, whole⟩
  | .getCharCount whole => some ⟨.decode, false, whole⟩
  | .getMaxByteCount _ => none
  | .getMaxCharCount _ => none
  | .encodeInto whole => some ⟨.encode, true, whole⟩
  | .decodeInto whole => some ⟨.decode, true, whole⟩
  | .encP0 => none
  | .encP1 => none
  | .encP2 => none
  | .encP3 => none
  | .decP0 => none
  | .decP1 => none
  | .decP2 => none

/-- The same operation in its whole or its sub-range form (R60). -/
def withWhole (whole : Bool) : Instr → Instr
  | .encode _ => .encode whole
  | .decode _ => .decode whole
  | .getByteCount _ => .getByteCount whole
  | .getCharCount _ => .getCharCount whole
  | .getMaxByteCount w => .getMaxByteCount w
  | .getMaxCharCount w => .getMaxCharCount w
  | .encodeInto _ => .encodeInto whole
  | .decodeInto _ => .decodeInto whole
  | .encP0 => .encP0
  | .encP1 => .encP1
  | .encP2 => .encP2
  | .encP3 => .encP3
  | .decP0 => .decP0
  | .decP1 => .decP1
  | .decP2 => .decP2

/-- `Idle` (R163). -/
abbrev Idle (s : State) : Prop := busy s = false

/-- No reserved bit of `BUFCTL` is set (R19, R57). -/
abbrev BufctlLegal (s : State) : Prop := bufctlReserved s = 0

/-- `LengthsTrue` (R162, R163): a buffer declared present has at least the elements it is declared to have. -/
abbrev LengthsTrue (f : OpForm) (s : State) : Prop :=
  (srcPresent s = true → s.srcLen ≤ sourceSize f.dir s.src) ∧
    (f.into = true → dstPresent s = true → s.dstLen ≤ destSize f.dir s.dst)

/-- `Disjoint` (R163, R164): no element of the source range shares storage with one of the destination window. -/
abbrev BuffersDisjoint (f : OpForm) (s : State) : Prop :=
  f.into = true → srcPresent s = true → dstPresent s = true → ∀ p ∈ s.aliases,
    ¬((effOff f.whole s ≤ p.1 ∧ p.1 < effOff f.whole s + effCnt f.whole s) ∧
      (s.dstOff ≤ p.2 ∧ p.2 < s.dstOff + needOf f.dir (effCnt f.whole s)))

/-- `ConfigLegal` (R163): the tables meet rule R72. Every state has it, by the type of its tables. -/
abbrev ConfigLegal (s : State) : Prop := s.tables.isLegal = true

/-- `OperandsWritten(op)` (R163): the host has written every register the operation reads (R52). The machine does not
ask for it: log entry 1. -/
def OperandsWritten (i : Instr) (s : State) : Bool :=
  match sourceForm i with
  | some f =>
    s.written.bufctl && s.written.srcLen && (f.whole || (s.written.srcOff && s.written.srcCnt)) &&
      (!f.into || (s.written.dstLen && s.written.dstOff))
  | none =>
    match i with
    | .getMaxByteCount _ => s.written.srcCnt
    | .getMaxCharCount _ => s.written.srcCnt
    | _ => true

/-- `InWidth` (R163, D8, U3) for lengths of `n` bits: operands, lengths, products and the result are below `2^n`. The
machine does not ask for it: log entry 15. -/
abbrev InWidth (n : Nat) (f : OpForm) (s : State) : Prop :=
  s.srcLen < 2 ^ n ∧ effOff f.whole s < 2 ^ n ∧ effCnt f.whole s < 2 ^ n ∧
    (f.into = true → s.dstLen < 2 ^ n ∧ s.dstOff < 2 ^ n) ∧
    6 * effCnt f.whole s < 2 ^ n ∧ 8 * effCnt f.whole s < 2 ^ n ∧ needOf f.dir (effCnt f.whole s) < 2 ^ n

/-- The premises without which a launch has no outcome (R163), those the machine decides. -/
abbrev LaunchPremises (f : OpForm) (s : State) : Prop :=
  Idle s ∧ BufctlLegal s ∧ LengthsTrue f s ∧ BuffersDisjoint f s

/-- A launch that keeps every premise of rule R163 for the engine at hand. -/
abbrev SafeLaunch (i : Instr) (f : OpForm) (s : State) : Prop :=
  LaunchPremises f s ∧ OperandsWritten i s = true ∧ ConfigLegal s ∧ InWidth Config.idxWidth f s

/-- Every buffer the operation requires is present (R54, R141). -/
abbrev BuffersPresent (f : OpForm) (s : State) : Prop :=
  srcPresent s = true ∧ (f.into = true → dstPresent s = true)

/-- The source sub-range fits (R142). -/
abbrev SourceFits (f : OpForm) (s : State) : Prop := effOff f.whole s + effCnt f.whole s ≤ s.srcLen

/-- The output fits the destination window (R143). -/
abbrev DestFits (f : OpForm) (s : State) : Prop :=
  f.into = true → s.dstOff + needOf f.dir (effCnt f.whole s) ≤ s.dstLen

/-- Every side of every buffer is in canonical form. -/
abbrev MemoriesWf (s : State) : Prop :=
  s.src.wf = true ∧ s.dst.wf = true ∧ s.fresh.wf = true ∧ ∀ b ∈ s.held, b.wf = true

/-- `STATUS` reads as rule R18 says: reserved bits 0, `ERR` never 3 (R145). -/
abbrev StatusLegal (s : State) : Prop := statusReserved s.status = 0 ∧ statusErr s.status ≠ 3

/-- The output cursor at the start of step `idx` (R15). -/
def outposAt (dir : Dir) (idx : Nat) : Nat :=
  match dir with
  | .encode => 3 * (idx / 4)
  | .decode => 4 * (idx / 3) + idx % 3

/-- The conversion in progress: `IDX` has not passed the count (R13), `OUTPOS` follows it (R15), the output is as long
as rule R36 says, and source range and destination window lie inside their buffers (R35). -/
abbrev RunLegal (s : State) : Prop :=
  s.idx ≤ s.run.cnt ∧ s.outpos = outposAt s.run.dir s.idx ∧ s.run.need = needOf s.run.dir s.run.cnt ∧
    s.run.off + s.run.cnt ≤ sourceSize s.run.dir s.src ∧ s.run.dbase + s.run.need ≤ destSize s.run.dir s.dest

/-- The invariant of the machine. -/
abbrev Inv (s : State) : Prop := MemoriesWf s ∧ StatusLegal s ∧ (busy s = true → RunLegal s)

/-- The source range taken by itself as a buffer (R139). -/
def subBuffer (dir : Dir) (b : Buffer) (off cnt : Nat) : Buffer :=
  match dir with
  | .encode => ⟨Memory.ofList (b.text.slice off cnt), Memory.zeros 0⟩
  | .decode => ⟨Memory.zeros 0, Memory.ofList (b.bytes.slice off cnt)⟩

/-- Change the state an outcome goes on in. -/
def mapNext (g : State → State) : Outcome → Outcome
  | .next s => .next (g s)
  | .fault r => .fault r
  | .refused r => .refused r

/-- The bits of a vector, the most significant first (R31). -/
def bitsMsb {w : Nat} (v : BitVec w) : List Bool := (List.range w).map v.getMsbD

/-- The text the engine reads: the effective range of the text side of `SRC` (R53). -/
def sourceText (whole : Bool) (s : State) : List CodePoint := s.src.text.slice (effOff whole s) (effCnt whole s)

/-- The bytes the engine reads: the effective range of the byte side of `SRC` (R53). -/
def sourceBytes (whole : Bool) (s : State) : List Byte := s.src.bytes.slice (effOff whole s) (effCnt whole s)

/-- The bytes an encode of the effective range produces (R86): `Pack` of the translated text. -/
def encodedBytes (whole : Bool) (s : State) : List Byte := pack ((sourceText whole s).map (xlateIn s.tables))

/-- The text a decode of the effective range produces (R105). -/
def decodedText (whole : Bool) (s : State) : List CodePoint := (unpack (sourceBytes whole s)).map (xlateOut s.tables)

end Sys2Proof.Machine
end

