-- ==== Sys2Proof/Certificates/Slice0/Obligations.lean ====
section
/-! DEFINITION. The statements for the provers. Each docstring names the rules of spec/ it formalises and the log
entries it rests on. -/

open Sys2Proof Sys2Proof.Machine

/-! ### Reset and idling -/

/-- After reset the engine is idle with no error recorded, the tables are the configured ones, which hold a space in slot
0 (R20), no buffer is supplied, and no operation is launched (R25, R160, R161). That no host move is pending and that the
host holds no other buffer are the model's choices (log entries 4 and 6). -/
def Obligations.ResetStateIsIdle : Prop :=
  State.reset.status = 0 ∧ statusErr State.reset.status = 0 ∧ busy State.reset = false ∧
    State.reset.tables = Config.tables ∧ State.reset.src = Buffer.absent ∧ State.reset.dst = Buffer.absent ∧
    State.reset.held = [] ∧ xlateOut State.reset.tables 0 = 0x20 ∧
    step State.reset = .next State.reset

/-- The invariant holds right after reset. -/
def Obligations.InvariantHoldsAtReset : Prop := Inv State.reset

/-- An idle engine with no host move to come holds its registers indefinitely (R155). -/
def Obligations.IdleEngineHoldsRegisters : Prop :=
  ∀ s : State, Idle s → s.host = [] → step s = .next s

/-! ### Encodings -/

/-- Words written out from the spec's tables (R51, R55, and the words of `95_test_vectors.md` V-P). -/
def Obligations.SpecWordsDecode : Prop :=
  decode (.cmd8 0b00001000#8) = .ok (.encode true) ∧ decode (.cmd8 0b00000001#8) = .ok (.decode false) ∧
    decode (.cmd8 0b00001010#8) = .ok (.getByteCount true) ∧ decode (.cmd8 0b00000101#8) = .ok (.getMaxCharCount false) ∧
    decode (.cmd8 0b00001110#8) = .ok (.encodeInto true) ∧ decode (.step3 0b010#3) = .ok .encP2 ∧
    decode (.step3 0b101#3) = .ok .decP1 ∧ decode (.step3 0b111#3) = .error .noSuchSelector

/-- The table of rule R51: a command word selects the row whose match it meets under the row's mask, and the values
`0x00..0x0F` except `0x0C` and `0x0D` are the ones that select a row. -/
def Obligations.CommandWordSelectsRow : Prop :=
  ∀ w : Byte,
    (w &&& 0xF7 = 0x00 → decode (.cmd8 w) = .ok (.encode (w.getLsbD 3))) ∧
    (w &&& 0xF7 = 0x01 → decode (.cmd8 w) = .ok (.decode (w.getLsbD 3))) ∧
    (w &&& 0xF7 = 0x02 → decode (.cmd8 w) = .ok (.getByteCount (w.getLsbD 3))) ∧
    (w &&& 0xF7 = 0x03 → decode (.cmd8 w) = .ok (.getCharCount (w.getLsbD 3))) ∧
    (w &&& 0xFF = 0x04 → decode (.cmd8 w) = .ok (.getMaxByteCount false)) ∧
    (w &&& 0xFF = 0x05 → decode (.cmd8 w) = .ok (.getMaxCharCount false)) ∧
    (w &&& 0xF7 = 0x06 → decode (.cmd8 w) = .ok (.encodeInto (w.getLsbD 3))) ∧
    (w &&& 0xF7 = 0x07 → decode (.cmd8 w) = .ok (.decodeInto (w.getLsbD 3))) ∧
    ((∃ i, decode (.cmd8 w) = .ok i) ↔ w.toNat ≤ 0x0F ∧ w ≠ 0x0C ∧ w ≠ 0x0D)

/-- Decoding the word of a well-formed instruction gives the instruction back (R51, R55). -/
def Obligations.DecodeEncodeAgree : Prop :=
  ∀ i : Instr, i.WellFormed = true → decode (encode i) = .ok i

/-- Every word that decodes is the word of the instruction it decodes to, which is well-formed (R51, R55). -/
def Obligations.EncodeDecodeAgree : Prop :=
  ∀ (c : Code) (i : Instr), decode c = .ok i → encode i = c ∧ i.WellFormed = true

/-! ### A step runs the decoded instruction -/

/-- When the engine is idle and the host's next move writes a command word, the step puts the word in `CMD` and is the
instruction's own meaning (R10, R17); a reserved word is refused (R57). -/
def Obligations.CommandStepRunsInstruction : Prop :=
  ∀ (s : State) (w : Byte) (rest : List HostMove), Idle s → s.host = .writeCmd w :: rest →
    (∀ i, decode (.cmd8 w) = .ok i → step s = exec i { s with host := rest, cmd := w }) ∧
    (∀ e, decode (.cmd8 w) = .error e → step s = .refused .reservedCommand)

/-- A busy engine with elements left performs the step of its direction and phase (R13, R14, R55), whether the host
waits for it or has no move to come. -/
def Obligations.EngineStepRunsSelectedStep : Prop :=
  ∀ (s u : State), busy s = true → s.idx < s.run.cnt →
    (s.host = [] ∧ u = s ∨ ∃ rest, s.host = .tick :: rest ∧ u = { s with host := rest }) →
    (s.run.dir = .encode →
      (s.idx % 4 = 0 → step s = exec .encP0 u) ∧ (s.idx % 4 = 1 → step s = exec .encP1 u) ∧
      (s.idx % 4 = 2 → step s = exec .encP2 u) ∧ (s.idx % 4 = 3 → step s = exec .encP3 u)) ∧
    (s.run.dir = .decode →
      (s.idx % 3 = 0 → step s = exec .decP0 u) ∧ (s.idx % 3 = 1 → step s = exec .decP1 u) ∧
      (s.idx % 3 = 2 → step s = exec .decP2 u)) ∧
    selector s ≠ 0b111#3

/-- A busy engine with no element left ends the operation (R13, R86, R105): `RESULT <- need`, no error, idle; the fresh
destination of an allocating form is the host's from now on (R174). -/
def Obligations.EngineEndsConversion : Prop :=
  ∀ (s : State), busy s = true → s.host = [] → s.run.cnt ≤ s.idx →
    (s.run.into = true → step s = .next { s with result := s.run.need, status := 0 }) ∧
    (s.run.into = false → step s =
      .next { s with result := s.run.need, status := 0, held := s.fresh :: s.held, fresh := Buffer.absent })

/-! ### The steps: result, completion and frame. `s.dest` is the destination of the conversion in progress; the frame
says that the other buffer and every register but `IDX` (and `OUTPOS` where named) are unchanged. -/

/-- ENC.P0 (R80). -/
def Obligations.EncP0Result : Prop :=
  ∀ (s : State) (c : CodePoint), s.dest.bytes.wf = true → s.src.text.read (s.run.off + s.idx) = some c →
    s.run.dbase + s.outpos < s.dest.bytes.size →
    ∃ t, exec .encP0 s = .next t ∧
      t.dest.bytes.read (s.run.dbase + s.outpos) = some (xlateIn s.tables c ++ 0#2) ∧
      (∀ k, k ≠ s.run.dbase + s.outpos → t.dest.bytes.read k = s.dest.bytes.read k) ∧
      t.dest.text = s.dest.text ∧ t = { s.setDest t.dest with idx := s.idx + 1 }

/-- ENC.P1 (R81). -/
def Obligations.EncP1Result : Prop :=
  ∀ (s : State) (c : CodePoint) (b : Byte), s.dest.bytes.wf = true → s.src.text.read (s.run.off + s.idx) = some c →
    s.dest.bytes.read (s.run.dbase + s.outpos) = some b → s.run.dbase + s.outpos + 1 < s.dest.bytes.size →
    ∃ t, exec .encP1 s = .next t ∧
      t.dest.bytes.read (s.run.dbase + s.outpos) =
        some (b.extractLsb' 2 6 ++ (xlateIn s.tables c).extractLsb' 4 2) ∧
      t.dest.bytes.read (s.run.dbase + s.outpos + 1) = some ((xlateIn s.tables c).extractLsb' 0 4 ++ 0#4) ∧
      (∀ k, k ≠ s.run.dbase + s.outpos → k ≠ s.run.dbase + s.outpos + 1 →
        t.dest.bytes.read k = s.dest.bytes.read k) ∧
      t.dest.text = s.dest.text ∧ t = { s.setDest t.dest with idx := s.idx + 1 }

/-- ENC.P2 (R82). -/
def Obligations.EncP2Result : Prop :=
  ∀ (s : State) (c : CodePoint) (b : Byte), s.dest.bytes.wf = true → s.src.text.read (s.run.off + s.idx) = some c →
    s.dest.bytes.read (s.run.dbase + s.outpos + 1) = some b → s.run.dbase + s.outpos + 2 < s.dest.bytes.size →
    ∃ t, exec .encP2 s = .next t ∧
      t.dest.bytes.read (s.run.dbase + s.outpos + 1) =
        some (b.extractLsb' 4 4 ++ (xlateIn s.tables c).extractLsb' 2 4) ∧
      t.dest.bytes.read (s.run.dbase + s.outpos + 2) = some ((xlateIn s.tables c).extractLsb' 0 2 ++ 0#6) ∧
      (∀ k, k ≠ s.run.dbase + s.outpos + 1 → k ≠ s.run.dbase + s.outpos + 2 →
        t.dest.bytes.read k = s.dest.bytes.read k) ∧
      t.dest.text = s.dest.text ∧ t = { s.setDest t.dest with idx := s.idx + 1 }

/-- ENC.P3 (R83); the only encode step that moves the output cursor. -/
def Obligations.EncP3Result : Prop :=
  ∀ (s : State) (c : CodePoint) (b : Byte), s.dest.bytes.wf = true → s.src.text.read (s.run.off + s.idx) = some c →
    s.dest.bytes.read (s.run.dbase + s.outpos + 2) = some b →
    ∃ t, exec .encP3 s = .next t ∧
      t.dest.bytes.read (s.run.dbase + s.outpos + 2) = some (b.extractLsb' 6 2 ++ xlateIn s.tables c) ∧
      (∀ k, k ≠ s.run.dbase + s.outpos + 2 → t.dest.bytes.read k = s.dest.bytes.read k) ∧
      t.dest.text = s.dest.text ∧ t = { s.setDest t.dest with idx := s.idx + 1, outpos := s.outpos + 3 }

/-- DEC.P0 (R100). -/
def Obligations.DecP0Result : Prop :=
  ∀ (s : State) (b : Byte), s.dest.text.wf = true → s.src.bytes.read (s.run.off + s.idx) = some b →
    s.run.dbase + s.outpos < s.dest.text.size →
    ∃ t, exec .decP0 s = .next t ∧
      t.dest.text.read (s.run.dbase + s.outpos) = some (xlateOut s.tables (b.extractLsb' 2 6)) ∧
      (∀ k, k ≠ s.run.dbase + s.outpos → t.dest.text.read k = s.dest.text.read k) ∧
      t.dest.bytes = s.dest.bytes ∧ t = { s.setDest t.dest with idx := s.idx + 1, outpos := s.outpos + 1 }

/-- DEC.P1 (R101). -/
def Obligations.DecP1Result : Prop :=
  ∀ (s : State) (b p : Byte), s.dest.text.wf = true → 1 ≤ s.idx → s.src.bytes.read (s.run.off + s.idx) = some b →
    s.src.bytes.read (s.run.off + s.idx - 1) = some p → s.run.dbase + s.outpos < s.dest.text.size →
    ∃ t, exec .decP1 s = .next t ∧
      t.dest.text.read (s.run.dbase + s.outpos) = some (xlateOut s.tables (p.extractLsb' 0 2 ++ b.extractLsb' 4 4)) ∧
      (∀ k, k ≠ s.run.dbase + s.outpos → t.dest.text.read k = s.dest.text.read k) ∧
      t.dest.bytes = s.dest.bytes ∧ t = { s.setDest t.dest with idx := s.idx + 1, outpos := s.outpos + 1 }

/-- DEC.P2 (R102); the only step that emits two symbols. -/
def Obligations.DecP2Result : Prop :=
  ∀ (s : State) (b p : Byte), s.dest.text.wf = true → 1 ≤ s.idx → s.src.bytes.read (s.run.off + s.idx) = some b →
    s.src.bytes.read (s.run.off + s.idx - 1) = some p → s.run.dbase + s.outpos + 1 < s.dest.text.size →
    ∃ t, exec .decP2 s = .next t ∧
      t.dest.text.read (s.run.dbase + s.outpos) = some (xlateOut s.tables (p.extractLsb' 0 4 ++ b.extractLsb' 6 2)) ∧
      t.dest.text.read (s.run.dbase + s.outpos + 1) = some (xlateOut s.tables (b.extractLsb' 0 6)) ∧
      (∀ k, k ≠ s.run.dbase + s.outpos → k ≠ s.run.dbase + s.outpos + 1 →
        t.dest.text.read k = s.dest.text.read k) ∧
      t.dest.bytes = s.dest.bytes ∧ t = { s.setDest t.dest with idx := s.idx + 1, outpos := s.outpos + 2 }

/-! ### The queries -/

/-- GETBYTECOUNT ends with `ceil(6 cnt / 8)` in `RESULT`, no error, and nothing else changed (R120, R122). -/
def Obligations.GetByteCountResult : Prop :=
  ∀ (whole : Bool) (s : State), LaunchPremises ⟨.encode, false, whole⟩ s → srcPresent s = true →
    SourceFits ⟨.encode, false, whole⟩ s →
    exec (.getByteCount whole) s =
      .next { s with result := (6 * (if whole then s.srcLen else s.srcCnt) + 7) / 8, status := 0 }

/-- GETCHARCOUNT ends with `floor(8 cnt / 6)` in `RESULT`, no error, and nothing else changed (R121, R123). -/
def Obligations.GetCharCountResult : Prop :=
  ∀ (whole : Bool) (s : State), LaunchPremises ⟨.decode, false, whole⟩ s → srcPresent s = true →
    SourceFits ⟨.decode, false, whole⟩ s →
    exec (.getCharCount whole) s =
      .next { s with result := (8 * (if whole then s.srcLen else s.srcCnt)) / 6, status := 0 }

/-- GETMAXBYTECOUNT of any natural, whatever the buffers and the presence bits of `BUFCTL` are (R52, R54, R120, R124). That
its reserved bits must be 0 is R19 and R57, read as binding this launch too (log entry 10). -/
def Obligations.GetMaxByteCountResult : Prop :=
  ∀ s : State, Idle s → BufctlLegal s →
    exec (.getMaxByteCount false) s = .next { s with result := (6 * s.srcCnt + 7) / 8, status := 0 }

/-- GETMAXCHARCOUNT of any natural, whatever the buffers and the presence bits of `BUFCTL` are (R52, R54, R121, R125). That
its reserved bits must be 0 is R19 and R57, read as binding this launch too (log entry 10). -/
def Obligations.GetMaxCharCountResult : Prop :=
  ∀ s : State, Idle s → BufctlLegal s →
    exec (.getMaxCharCount false) s = .next { s with result := (8 * s.srcCnt) / 6, status := 0 }

/-- The Max queries with `whole = 1` are reserved (R57), no launch is made while busy (R166), and none with reserved bits of
`BUFCTL` set (R19, R57; log entry 10). The order is the model's choice (log entry 9). -/
def Obligations.MaxQueryRefusals : Prop :=
  ∀ s : State, exec (.getMaxByteCount true) s = .refused .reservedCommand ∧
    exec (.getMaxCharCount true) s = .refused .reservedCommand ∧
    (busy s = true → exec (.getMaxByteCount false) s = .refused .launchWhileBusy ∧
      exec (.getMaxCharCount false) s = .refused .launchWhileBusy) ∧
    (Idle s → ¬ BufctlLegal s → exec (.getMaxByteCount false) s = .refused .reservedBufctl ∧
      exec (.getMaxCharCount false) s = .refused .reservedBufctl)

/-- GETBYTECOUNT and ENCODE, GETCHARCOUNT and DECODE end for the same operands with the same error, and without error
with the same `RESULT`; each ends where the other does (R122, R123, R136). -/
def Obligations.QueriesAgreeWithConversions : Prop :=
  ∀ (whole : Bool) (s : State),
    (∀ t, exec (.encode whole) s = .next t →
      ∃ u, exec (.getByteCount whole) s = .next u ∧ u.result = t.result ∧ u.status = t.status) ∧
    (∀ u, exec (.getByteCount whole) s = .next u →
      ∃ t, exec (.encode whole) s = .next t ∧ t.result = u.result ∧ t.status = u.status) ∧
    (∀ t, exec (.decode whole) s = .next t →
      ∃ u, exec (.getCharCount whole) s = .next u ∧ u.result = t.result ∧ u.status = t.status) ∧
    (∀ u, exec (.getCharCount whole) s = .next u →
      ∃ t, exec (.decode whole) s = .next t ∧ t.result = u.result ∧ t.status = u.status)

/-! ### Errors and refusals at launch -/

/-- An absent required buffer raises InvalidArgument, before any range check, and only `STATUS` changes (R54, R141,
R146, R147). -/
def Obligations.InvalidArgumentRaised : Prop :=
  ∀ (i : Instr) (f : OpForm) (s : State), sourceForm i = some f → LaunchPremises f s →
    (srcPresent s = false ∨ f.into = true ∧ dstPresent s = false) →
    exec i s = .next { s with status := 1 }

/-- With the buffers present, a source sub-range that does not fit, or (INTO forms) an output that does not fit, raises
OutOfRange, and only `STATUS` changes (R142, R143, R146, R147). -/
def Obligations.OutOfRangeRaised : Prop :=
  ∀ (i : Instr) (f : OpForm) (s : State), sourceForm i = some f → LaunchPremises f s → BuffersPresent f s →
    (¬ SourceFits f s ∨ ¬ DestFits f s) →
    exec i s = .next { s with status := 2 }

/-- A launch that is made while busy (R166), with reserved `BUFCTL` bits (R57), with a false length (R162) or with an
overlap (R164) has no outcome: it is refused under the name of the first of these four premises of R163 that is false. The
order among them is the model's choice (log entry 9), and a buffer supplied with the other element type counts as a false
length (log entry 23). The premises OperandsWritten, InWidth and ConfigLegal refuse nothing in the model (log entries 1,
15 and 18). -/
def Obligations.FalsePremiseRefused : Prop :=
  ∀ (i : Instr) (f : OpForm) (s : State), sourceForm i = some f →
    (busy s = true → exec i s = .refused .launchWhileBusy) ∧
    (Idle s → ¬ BufctlLegal s → exec i s = .refused .reservedBufctl) ∧
    (Idle s → BufctlLegal s → ¬ LengthsTrue f s → exec i s = .refused .falseLength) ∧
    (Idle s → BufctlLegal s → LengthsTrue f s → ¬ BuffersDisjoint f s → exec i s = .refused .overlappingBuffers)

/-! ### The conversions: result, completion and frame. No hypothesis speaks of the content of the source (R144). -/

/-- ENCODE (R86): the fresh destination, the host's newest buffer from now on (R174), is `Pack` of the translated
range. -/
def Obligations.EncodeResult : Prop :=
  ∀ (whole : Bool) (s : State), LaunchPremises ⟨.encode, false, whole⟩ s → srcPresent s = true →
    SourceFits ⟨.encode, false, whole⟩ s →
    ∃ (t : State) (b : Buffer), exec (.encode whole) s = .next t ∧
      b.bytes.toList = pack ((sourceText whole s).map (xlateIn s.tables)) ∧
      b.bytes.size = (6 * effCnt whole s + 7) / 8 ∧ b.text.size = 0 ∧
      t.result = b.bytes.size ∧ t.idx = effCnt whole s ∧ t.outpos = 3 * (effCnt whole s / 4) ∧
      t = { s with held := b :: s.held, fresh := Buffer.absent, result := t.result, status := 0, idx := t.idx,
                   outpos := t.outpos, run := t.run }

/-- DECODE (R105): the fresh destination, the host's newest buffer from now on (R174), is the translation of `Unpack` of
the range. -/
def Obligations.DecodeResult : Prop :=
  ∀ (whole : Bool) (s : State), LaunchPremises ⟨.decode, false, whole⟩ s → srcPresent s = true →
    SourceFits ⟨.decode, false, whole⟩ s →
    ∃ (t : State) (b : Buffer), exec (.decode whole) s = .next t ∧
      b.text.toList = (unpack (sourceBytes whole s)).map (xlateOut s.tables) ∧
      b.text.size = (8 * effCnt whole s) / 6 ∧ b.bytes.size = 0 ∧
      t.result = b.text.size ∧ t.idx = effCnt whole s ∧ t.outpos = t.result ∧
      t = { s with held := b :: s.held, fresh := Buffer.absent, result := t.result, status := 0, idx := t.idx,
                   outpos := t.outpos, run := t.run }

/-- ENCODE_INTO (R87, R37, R88): the window `DST[DST_OFF .. DST_OFF+need-1]` is `Pack` of the translated range, whatever
it held, and every byte outside it is unchanged. -/
def Obligations.EncodeIntoResult : Prop :=
  ∀ (whole : Bool) (s : State), s.dst.bytes.wf = true → LaunchPremises ⟨.encode, true, whole⟩ s →
    BuffersPresent ⟨.encode, true, whole⟩ s → SourceFits ⟨.encode, true, whole⟩ s → DestFits ⟨.encode, true, whole⟩ s →
    ∃ t, exec (.encodeInto whole) s = .next t ∧
      (∀ j, j < (6 * effCnt whole s + 7) / 8 →
        t.dst.bytes.read (s.dstOff + j) = (pack ((sourceText whole s).map (xlateIn s.tables)))[j]?) ∧
      (∀ k, (k < s.dstOff ∨ s.dstOff + (6 * effCnt whole s + 7) / 8 ≤ k) →
        t.dst.bytes.read k = s.dst.bytes.read k) ∧
      t.dst.text = s.dst.text ∧ t.result = (6 * effCnt whole s + 7) / 8 ∧
      t = { s with dst := t.dst, result := t.result, status := 0, idx := t.idx, outpos := t.outpos, run := t.run }

/-- DECODE_INTO (R106, R37): the window is the translation of `Unpack` of the range, and every element outside it is
unchanged. -/
def Obligations.DecodeIntoResult : Prop :=
  ∀ (whole : Bool) (s : State), s.dst.text.wf = true → LaunchPremises ⟨.decode, true, whole⟩ s →
    BuffersPresent ⟨.decode, true, whole⟩ s → SourceFits ⟨.decode, true, whole⟩ s → DestFits ⟨.decode, true, whole⟩ s →
    ∃ t, exec (.decodeInto whole) s = .next t ∧
      (∀ j, j < (8 * effCnt whole s) / 6 →
        t.dst.text.read (s.dstOff + j) = ((unpack (sourceBytes whole s)).map (xlateOut s.tables))[j]?) ∧
      (∀ k, (k < s.dstOff ∨ s.dstOff + (8 * effCnt whole s) / 6 ≤ k) → t.dst.text.read k = s.dst.text.read k) ∧
      t.dst.bytes = s.dst.bytes ∧ t.result = (8 * effCnt whole s) / 6 ∧
      t = { s with dst := t.dst, result := t.result, status := 0, idx := t.idx, outpos := t.outpos, run := t.run }

/-- A short form is the sub-range form with offset 0 and count `SRC_LEN`, the error and the refusal included (R53,
R60). -/
def Obligations.ShortFormEqualsSubrange : Prop :=
  ∀ (i : Instr) (f : OpForm) (s : State), sourceForm i = some f → f.whole = true →
    exec (withWhole false i) { s with srcOff := 0, srcCnt := s.srcLen } =
      mapNext (fun t => { t with srcOff := 0, srcCnt := t.srcLen }) (exec i s)

/-- The sub-range form ends in the same `RESULT` and the same output as the whole form on the range taken by itself
(R139). -/
def Obligations.SubrangeEqualsExtractedRange : Prop :=
  ∀ (i : Instr) (f : OpForm) (s : State), sourceForm i = some f → f.whole = false → LaunchPremises f s →
    BuffersPresent f s → SourceFits f s → DestFits f s →
    ∃ t u, exec i s = .next t ∧
      exec (withWhole true i) { s with src := subBuffer f.dir s.src s.srcOff s.srcCnt, srcLen := s.srcCnt, aliases := [] } =
        .next u ∧
      t.result = u.result ∧ t.dst = u.dst ∧ t.fresh = u.fresh ∧ t.held = u.held

/-! ### Laws of the packed format -/

/-- `ByteCount` and `CharCount` by residue, their compositions and first values (R127). -/
def Obligations.LengthTable : Prop :=
  (∀ k, byteCount (4 * k) = 3 * k ∧ byteCount (4 * k + 1) = 3 * k + 1 ∧ byteCount (4 * k + 2) = 3 * k + 2 ∧
    byteCount (4 * k + 3) = 3 * k + 3 ∧ charCount (3 * k) = 4 * k ∧ charCount (3 * k + 1) = 4 * k + 1 ∧
    charCount (3 * k + 2) = 4 * k + 2) ∧
  (∀ m, byteCount (charCount m) = m) ∧
  (∀ n, charCount (byteCount n) = if n % 4 = 3 then n + 1 else n) ∧
  (List.range 14).map byteCount = [0, 1, 2, 3, 3, 4, 5, 6, 6, 7, 8, 9, 9, 10] ∧
  (List.range 14).map charCount = [0, 1, 2, 4, 5, 6, 8, 9, 10, 12, 13, 14, 16, 17]

/-- Packing and unpacking: the symbols come back, with one more symbol of index 0 exactly when the count is 3 modulo 4
(R130, R131, R132). -/
def Obligations.UnpackAfterPack : Prop :=
  ∀ l : List Sym6,
    unpack (pack l) = l ++ (if l.length % 4 = 3 then [Config.padIndex] else []) ∧
    (unpack (pack l)).length = charCount (byteCount l.length) ∧
    ((unpack (pack l)).length = 4 * ((l.length + 3) / 4) ↔ l.length % 4 = 0 ∨ l.length % 4 = 3)

/-- Unpacking and packing: the bytes come back with the trailing bits of the last byte cleared (R135). -/
def Obligations.PackAfterUnpack : Prop :=
  ∀ (l : List Byte) (b : Byte),
    (pack (unpack l)).length = l.length ∧ (l.length % 3 = 0 → pack (unpack l) = l) ∧
    (l.length % 3 = 0 → pack (unpack (l ++ [b])) = l ++ [b &&& 0xFC]) ∧
    (l.length % 3 = 1 → pack (unpack (l ++ [b])) = l ++ [b &&& 0xF0])

/-- Concatenation at a group boundary, and not in general elsewhere (R138). -/
def Obligations.ConcatenationAtGroupBoundary : Prop :=
  (∀ l l' : List Sym6, l.length % 4 = 0 → pack (l ++ l') = pack l ++ pack l') ∧
  (∀ l l' : List Byte, l.length % 3 = 0 → unpack (l ++ l') = unpack l ++ unpack l') ∧
  (∃ l l' : List Sym6, pack (l ++ l') ≠ pack l ++ pack l') ∧
  (∃ l l' : List Byte, unpack (l ++ l') ≠ unpack l ++ unpack l')

/-- The packed stream is the symbols' bits, most significant first, then zero padding up to a whole byte (R31, R85,
R88). -/
def Obligations.PackIsBitString : Prop :=
  ∀ l : List Sym6,
    (pack l).length = (6 * l.length + 7) / 8 ∧
    (pack l).flatMap bitsMsb =
      l.flatMap bitsMsb ++ List.replicate (8 * ((6 * l.length + 7) / 8) - 6 * l.length) false

/-- The unpacked symbols are the stream's bits, six at a time, the remainder dropped (R104). -/
def Obligations.UnpackIsBitString : Prop :=
  ∀ l : List Byte,
    (unpack l).length = (8 * l.length) / 6 ∧
    (unpack l).flatMap bitsMsb = (l.flatMap bitsMsb).take (6 * ((8 * l.length) / 6))

/-- The trailing 2 or 4 bits of the last byte take part in no symbol (R107). -/
def Obligations.TrailingBitsIgnored : Prop :=
  ∀ (l : List Byte) (b b' : Byte),
    (l.length % 3 = 0 → b.extractLsb' 2 6 = b'.extractLsb' 2 6 → unpack (l ++ [b]) = unpack (l ++ [b'])) ∧
    (l.length % 3 = 1 → b.extractLsb' 4 4 = b'.extractLsb' 4 4 → unpack (l ++ [b]) = unpack (l ++ [b']))

/-! ### Translation -/

/-- A mapped code point comes back, an unmapped one comes back as the fallback's; a value that is not a scalar value is
unmapped (R70, R72). -/
def Obligations.TranslationComesBack : Prop :=
  ∀ (t : Tables) (c : CodePoint),
    (∀ x, encLookup t c = some x → xlateIn t c = x ∧ xlateOut t (xlateIn t c) = c) ∧
    (encLookup t c = none → xlateIn t c = t.fallback ∧ xlateOut t (xlateIn t c) = xlateOut t t.fallback) ∧
    (isScalar c = false → xlateIn t c = t.fallback)

/-- The default `ENC_INDEX` maps a scalar value to the lowest assigned slot that holds it, and nothing else (R21, R70 (d),
D6). It is said of all contents, those too in which two assigned slots hold one code point, which the constraints on an
engine's tables leave no room for (log entry 18); and `XlateIn` of an engine's tables is this lookup with the fallback. -/
def Obligations.DefaultIndexIsFirstOccurrence : Prop :=
  (∀ (t : TableData) (c : CodePoint) (x : Sym6), t.encIndex = defaultEncIndex t →
    (t.lookup c = some x ↔
      isScalar c = true ∧ t.assignedAt x = true ∧ t.codeAt x = c ∧
        ∀ y : Sym6, y < x → ¬ (t.assignedAt y = true ∧ t.codeAt y = c))) ∧
  (∀ (t : Tables) (c : CodePoint), xlateIn t c = (t.lookup c).getD t.fallback)

/-- Encoding a text of mapped code points and decoding the bytes gives the text, with one trailing space exactly when its
length is 3 modulo 4 (R133). -/
def Obligations.TextRoundTrip : Prop :=
  ∀ s : State, LaunchPremises ⟨.encode, false, true⟩ s → srcPresent s = true →
    (∀ c ∈ sourceText true s, encLookup s.tables c ≠ none) →
    ∃ t u, exec (.encode true) s = .next t ∧
      exec (.decode true) { t with src := t.buffer (.held 0), srcLen := t.result } = .next u ∧
      (u.buffer (.held 0)).text.toList = sourceText true s ++ (if (sourceText true s).length % 4 = 3 then [0x20] else [])

/-- An unmapped code point alone encodes to the byte `FALLBACK_INDEX << 2` and decodes to the fallback's code point
(R134). -/
def Obligations.FallbackIsDeterministic : Prop :=
  ∀ (s : State) (c : CodePoint), LaunchPremises ⟨.encode, false, true⟩ s → srcPresent s = true →
    sourceText true s = [c] → encLookup s.tables c = none →
    ∃ t u, exec (.encode true) s = .next t ∧ (t.buffer (.held 0)).bytes.toList = [s.tables.fallback ++ 0#2] ∧
      exec (.decode true) { t with src := t.buffer (.held 0), srcLen := t.result } = .next u ∧
      (u.buffer (.held 0)).text.toList = [xlateOut s.tables s.tables.fallback]

/-! ### Rules of the whole machine -/

/-- No instruction changes what the host wrote: registers 0 to 4, `CMD`, `BUFCTL`, the source buffer, or the tables, nor
the host's own side (R11, R17, R19, R20, R167). Of the buffers the host holds it changes none; it may add one (R174). -/
def Obligations.ExecLeavesHostState : Prop :=
  ∀ (i : Instr) (s t : State), exec i s = .next t →
    t.srcLen = s.srcLen ∧ t.srcOff = s.srcOff ∧ t.srcCnt = s.srcCnt ∧ t.dstLen = s.dstLen ∧ t.dstOff = s.dstOff ∧
    t.cmd = s.cmd ∧ t.bufctl = s.bufctl ∧ t.written = s.written ∧ t.tables = s.tables ∧ t.src = s.src ∧
    t.aliases = s.aliases ∧ t.host = s.host ∧ t.hostRead = s.hostRead ∧ t.draws = s.draws ∧
    (t.held = s.held ∨ ∃ b : Buffer, t.held = b :: s.held)

/-- No step, of the engine or of the host, reset included, changes the tables (R20, R43, R161). -/
def Obligations.StepKeepsTables : Prop :=
  ∀ s t : State, step s = .next t → t.tables = s.tables

/-- Every step keeps the invariant: canonical buffers, `STATUS` as rule R18 says with `ERR` never 3 (R145), and a
conversion in progress within its bounds with its cursor where rules R13, R15 and R35 put it. -/
def Obligations.StepKeepsInvariant : Prop :=
  ∀ s t : State, Inv s → step s = .next t → Inv t

/-- From a state that meets the invariant no step faults: no access is ever outside a buffer (R35, R140, R173). -/
def Obligations.InvariantStepNeverFaults : Prop :=
  ∀ (s : State) (r : Fault), Inv s → step s ≠ .fault r

/-- A busy engine reaches the end of its operation: after the steps left and one more move it is idle, without error and
with `RESULT` written (R172, R173). -/
def Obligations.BusyEngineEnds : Prop :=
  ∀ s : State, Inv s → busy s = true → s.host = [] →
    ∃ t, repeatStep step (s.run.cnt - s.idx + 1) s = .next t ∧ busy t = false ∧ statusErr t.status = 0 ∧
      t.result = s.run.need

/-- An operation seen step by step gives what it gives as one transition (R10, R172): a conversion that passes its checks
is one launch, one step per source element and the end; a query, and a conversion that is refused or raises an error
(R146), are over at the launch; a reserved word is refused (R57). -/
def Obligations.StepwiseEqualsIndivisible : Prop :=
  ∀ (s : State) (w : Byte), Idle s → s.host = [] →
    (∀ e, decode (.cmd8 w) = .error e → step { s with host := [.startCmd w] } = .refused .reservedCommand) ∧
    (∀ i, decode (.cmd8 w) = .ok i → conversionForm i = none →
      step { s with host := [.startCmd w] } = exec i { s with cmd := w }) ∧
    (∀ i f, decode (.cmd8 w) = .ok i → conversionForm i = some f →
      (¬ (LaunchPremises f s ∧ BuffersPresent f s ∧ SourceFits f s ∧ DestFits f s) →
        step { s with host := [.startCmd w] } = exec i { s with cmd := w }) ∧
      (LaunchPremises f s ∧ BuffersPresent f s ∧ SourceFits f s ∧ DestFits f s →
        repeatStep step (effCnt f.whole s + 2) { s with host := [.startCmd w] } = exec i { s with cmd := w }))

/-! ### The host's moves -/

/-- Between operations a host write of an operand register stores the value there, marks the register written (R12), and
changes no other register, no buffer and no table; a write of `BUFCTL` stores the byte there, whatever its bits (R19), and
changes nothing else but that mark (R11, R174). -/
def Obligations.HostWritesOperandRegister : Prop :=
  ∀ (s : State) (rest : List HostMove), Idle s →
    (∀ (r : OperandReg) (v : Nat), s.host = .writeReg r v :: rest →
      ∃ t, step s = .next t ∧ regValue (.operand r) t = v ∧
        (∀ q : Reg, q ≠ .operand r → regValue q t = regValue q s) ∧
        (r = .srcLen → t.written = { s.written with srcLen := true }) ∧
        (r = .srcOff → t.written = { s.written with srcOff := true }) ∧
        (r = .srcCnt → t.written = { s.written with srcCnt := true }) ∧
        (r = .dstLen → t.written = { s.written with dstLen := true }) ∧
        (r = .dstOff → t.written = { s.written with dstOff := true }) ∧
        t.tables = s.tables ∧ t.src = s.src ∧ t.dst = s.dst ∧ t.fresh = s.fresh ∧ t.held = s.held ∧
        t.aliases = s.aliases ∧ t.idx = s.idx ∧ t.outpos = s.outpos ∧ t.run = s.run ∧ t.host = rest ∧
        t.hostRead = s.hostRead ∧ t.draws = s.draws) ∧
    (∀ v : Byte, s.host = .writeBufctl v :: rest →
      step s = .next { s with host := rest, bufctl := v, written := { s.written with bufctl := true } })

/-- While an operation runs a read of `STATUS` goes on (R166, R174), and so does a read of an element of a buffer that the
host has not handed over (the model's choice, log entry 26); every other move but a wait, a reset and a read of a held
buffer is refused (R166, R174, U7). What a wait does is EngineStepRunsSelectedStep and EngineEndsConversion; what a reset
does, which R174 lists as assumed never and R160 and U9 give a meaning, is ResetDuringOperation (log entry 11). -/
def Obligations.HostKeepsHandsOffWhileBusy : Prop :=
  ∀ (s : State) (m : HostMove) (rest : List HostMove), busy s = true → s.host = m :: rest →
    (m = .readReg .status → step s = .next { s with host := rest, hostRead := s.status.toNat }) ∧
    (∀ (n k : Nat) (v : CodePoint), m = .readText (.held n) k → (s.buffer (.held n)).text.read k = some v →
      step s = .next { s with host := rest, hostRead := v.toNat }) ∧
    (∀ (n k : Nat) (v : Byte), m = .readByte (.held n) k → (s.buffer (.held n)).bytes.read k = some v →
      step s = .next { s with host := rest, hostRead := v.toNat }) ∧
    (m ≠ .readReg .status → m ≠ .tick → m ≠ .reset → (∀ n k, m ≠ .readText (.held n) k) →
      (∀ n k, m ≠ .readByte (.held n) k) → step s = .refused .hostWhileBusy)

/-- What the host reads in a register between operations, nothing else changing: registers 0 to 4, `CMD` (R17: the last
value written), `STATUS` (R147: how it learns of an error) and `BUFCTL` as they stand, and `RESULT` as it stands after an
operation that ended without error (R11). After an error a read of `RESULT` gives some value that the register does not
bind, and counts a draw (U10; log entry 11). -/
def Obligations.HostReadsResult : Prop :=
  ∀ (s : State) (r : Reg) (rest : List HostMove), Idle s → s.host = .readReg r :: rest →
    ((r ≠ .result ∨ statusErr s.status = 0) →
      ∃ v, step s = .next { s with host := rest, hostRead := v } ∧
        (r = .operand .srcLen → v = s.srcLen) ∧ (r = .operand .srcOff → v = s.srcOff) ∧
        (r = .operand .srcCnt → v = s.srcCnt) ∧ (r = .operand .dstLen → v = s.dstLen) ∧
        (r = .operand .dstOff → v = s.dstOff) ∧ (r = .result → v = s.result) ∧ (r = .cmd → v = s.cmd.toNat) ∧
        (r = .status → v = s.status.toNat) ∧ (r = .bufctl → v = s.bufctl.toNat)) ∧
    (r = .result → statusErr s.status ≠ 0 →
      ∃ v, step s = .next { s with host := rest, hostRead := v, draws := s.draws + 1 })

/-- Reset of an idle engine: `STATUS` is 0, the registers the host writes are unwritten, and the tables and every buffer
are untouched (R25, R160, R161). -/
def Obligations.ResetWhileIdle : Prop :=
  ∀ (s : State) (rest : List HostMove), Idle s → s.host = .reset :: rest →
    ∃ t, step s = .next t ∧ t.status = 0 ∧ t.written = ⟨false, false, false, false, false, false⟩ ∧
      t.tables = s.tables ∧ t.src = s.src ∧ t.dst = s.dst ∧ t.fresh = s.fresh ∧ t.held = s.held ∧ t.aliases = s.aliases ∧
      t.host = rest

/-- Reset during an operation abandons it (R160): the engine is idle, the source is untouched, every element of the
host's destination outside the window is unchanged, and the elements of the window may hold any value (log entry 11). -/
def Obligations.ResetDuringOperation : Prop :=
  ∀ (s : State) (rest : List HostMove), busy s = true → s.host = .reset :: rest →
    ∃ t, step s = .next t ∧ t.status = 0 ∧ t.tables = s.tables ∧ t.src = s.src ∧ t.held = s.held ∧ t.host = rest ∧
      t.dst.text.size = s.dst.text.size ∧ t.dst.bytes.size = s.dst.bytes.size ∧
      (s.run.into = false → t.dst = s.dst ∧ t.fresh = Buffer.absent) ∧
      (s.run.into = true → t.fresh = s.fresh ∧
        ∀ k, (k < s.run.dbase ∨ s.run.dbase + s.run.need ≤ k) →
          t.dst.bytes.read k = s.dst.bytes.read k ∧ t.dst.text.read k = s.dst.text.read k)

/-- Between operations the host reads any element of any of its buffers (R40, R174): the source, the destination it
supplied, and every buffer it holds. The model's choices: the names of the buffers (log entry 26), and that an index past
the end gives some value that no buffer binds (log entry 24). -/
def Obligations.HostReadsBuffers : Prop :=
  ∀ (s : State) (b : BufferName) (k : Nat) (rest : List HostMove), Idle s →
    (s.host = .readText b k :: rest →
      (∀ v, (s.buffer b).text.read k = some v → step s = .next { s with host := rest, hostRead := v.toNat }) ∧
      ((s.buffer b).text.read k = none → ∃ v, step s = .next { s with host := rest, hostRead := v, draws := s.draws + 1 })) ∧
    (s.host = .readByte b k :: rest →
      (∀ v, (s.buffer b).bytes.read k = some v → step s = .next { s with host := rest, hostRead := v.toNat }) ∧
      ((s.buffer b).bytes.read k = none → ∃ v, step s = .next { s with host := rest, hostRead := v, draws := s.draws + 1 }))

/-- Between operations the host creates, fills, copies into, changes and discards its buffers, and says which elements of
`SRC` and `DST` share storage (R164, R174): the named buffer holds the new elements, every other buffer and every register
is as before. The model's choices: the names of the buffers (log entry 26); new storage for `SRC` or `DST` shares none with the other until the host says so
(log entry 8), and a write of an element past the end of a buffer changes no element (log entry 24). -/
def Obligations.HostChangesBuffers : Prop :=
  ∀ (s : State) (b : BufferName) (rest : List HostMove), Idle s → (∀ n, b = .held n → n < s.held.length) →
    (∀ c, s.host = .create c :: rest → step s = .next { s with host := rest, held := bufferOf c :: s.held }) ∧
    (∀ shared, s.host = .placeBuffers shared :: rest → step s = .next { s with host := rest, aliases := shared }) ∧
    (∀ (m : HostMove) (v : Buffer), s.host = m :: rest →
      ((∃ c, m = .fill b c ∧ v = bufferOf c) ∨ (∃ a, m = .copy a b ∧ v = s.buffer a) ∨
        (∃ k x, m = .writeText b k x ∧ v = { s.buffer b with text := (s.buffer b).text.put k x }) ∨
        (∃ k x, m = .writeByte b k x ∧ v = { s.buffer b with bytes := (s.buffer b).bytes.put k x })) →
      ∃ t, step s = .next t ∧ t.buffer b = v ∧ (∀ a, a ≠ b → t.buffer a = s.buffer a) ∧
        t.held.length = s.held.length ∧
        (b = .src ∨ b = .dst → t.aliases = []) ∧ (∀ n, b = .held n → t.aliases = s.aliases) ∧
        t = { s with host := rest, src := t.src, dst := t.dst, held := t.held, aliases := t.aliases }) ∧
    (s.host = .discard b :: rest →
      (b = .src → step s = .next { s with host := rest, src := Buffer.absent, aliases := [] }) ∧
      (b = .dst → step s = .next { s with host := rest, dst := Buffer.absent, aliases := [] }) ∧
      (∀ n, b = .held n → step s = .next { s with host := rest, held := s.held.eraseIdx n }))

/-- What every configured table meets (R20, R72, the example of R70): slot 0 holds a space and the space maps to it, each
of the 40 members has an assigned slot, 24 slots are unassigned, and a mapped code point decodes back. That R20's count
and R70's example bind every configuration is the model's reading (DEDUCED, log entry 18). -/
def Obligations.TablesMeetConstraints : Prop :=
  ∀ t : Tables,
    xlateOut t 0 = 0x20 ∧ xlateIn t 0x20 = 0 ∧ slotAssigned t 0 = true ∧ members.length = 40 ∧
    (∀ c ∈ members, ∃ x, slotAssigned t x = true ∧ xlateOut t x = c) ∧
    (slots.filter fun x => !slotAssigned t x).length = 24 ∧
    (∀ c x, encLookup t c = some x → xlateOut t x = c)
end

