-- ==== Sys2Proof/Laws/State.lean ====
section
/-! SUPPORT. What each named update of the state does to each field: one lemma per field per update, so that no later
proof unfolds an update. -/

namespace Sys2Proof.Machine

/-! ### `setBusy` -/

@[simp] theorem setBusy_srcLen (s : State) : (setBusy s).srcLen = s.srcLen := rfl
@[simp] theorem setBusy_srcOff (s : State) : (setBusy s).srcOff = s.srcOff := rfl
@[simp] theorem setBusy_srcCnt (s : State) : (setBusy s).srcCnt = s.srcCnt := rfl
@[simp] theorem setBusy_dstLen (s : State) : (setBusy s).dstLen = s.dstLen := rfl
@[simp] theorem setBusy_dstOff (s : State) : (setBusy s).dstOff = s.dstOff := rfl
@[simp] theorem setBusy_result (s : State) : (setBusy s).result = s.result := rfl
@[simp] theorem setBusy_cmd (s : State) : (setBusy s).cmd = s.cmd := rfl
@[simp] theorem setBusy_status (s : State) : (setBusy s).status = statusWord (statusErr s.status) true := rfl
@[simp] theorem setBusy_bufctl (s : State) : (setBusy s).bufctl = s.bufctl := rfl
@[simp] theorem setBusy_written (s : State) : (setBusy s).written = s.written := rfl
@[simp] theorem setBusy_idx (s : State) : (setBusy s).idx = s.idx := rfl
@[simp] theorem setBusy_outpos (s : State) : (setBusy s).outpos = s.outpos := rfl
@[simp] theorem setBusy_run (s : State) : (setBusy s).run = s.run := rfl
@[simp] theorem setBusy_tables (s : State) : (setBusy s).tables = s.tables := rfl
@[simp] theorem setBusy_src (s : State) : (setBusy s).src = s.src := rfl
@[simp] theorem setBusy_dst (s : State) : (setBusy s).dst = s.dst := rfl
@[simp] theorem setBusy_fresh (s : State) : (setBusy s).fresh = s.fresh := rfl
@[simp] theorem setBusy_held (s : State) : (setBusy s).held = s.held := rfl
@[simp] theorem setBusy_aliases (s : State) : (setBusy s).aliases = s.aliases := rfl
@[simp] theorem setBusy_host (s : State) : (setBusy s).host = s.host := rfl
@[simp] theorem setBusy_hostRead (s : State) : (setBusy s).hostRead = s.hostRead := rfl
@[simp] theorem setBusy_draws (s : State) : (setBusy s).draws = s.draws := rfl

/-! ### `setEnded` -/

@[simp] theorem setEnded_srcLen (e : BitVec 2) (s : State) : (setEnded e s).srcLen = s.srcLen := rfl
@[simp] theorem setEnded_srcOff (e : BitVec 2) (s : State) : (setEnded e s).srcOff = s.srcOff := rfl
@[simp] theorem setEnded_srcCnt (e : BitVec 2) (s : State) : (setEnded e s).srcCnt = s.srcCnt := rfl
@[simp] theorem setEnded_dstLen (e : BitVec 2) (s : State) : (setEnded e s).dstLen = s.dstLen := rfl
@[simp] theorem setEnded_dstOff (e : BitVec 2) (s : State) : (setEnded e s).dstOff = s.dstOff := rfl
@[simp] theorem setEnded_result (e : BitVec 2) (s : State) : (setEnded e s).result = s.result := rfl
@[simp] theorem setEnded_cmd (e : BitVec 2) (s : State) : (setEnded e s).cmd = s.cmd := rfl
@[simp] theorem setEnded_status (e : BitVec 2) (s : State) : (setEnded e s).status = statusWord e false := rfl
@[simp] theorem setEnded_bufctl (e : BitVec 2) (s : State) : (setEnded e s).bufctl = s.bufctl := rfl
@[simp] theorem setEnded_written (e : BitVec 2) (s : State) : (setEnded e s).written = s.written := rfl
@[simp] theorem setEnded_idx (e : BitVec 2) (s : State) : (setEnded e s).idx = s.idx := rfl
@[simp] theorem setEnded_outpos (e : BitVec 2) (s : State) : (setEnded e s).outpos = s.outpos := rfl
@[simp] theorem setEnded_run (e : BitVec 2) (s : State) : (setEnded e s).run = s.run := rfl
@[simp] theorem setEnded_tables (e : BitVec 2) (s : State) : (setEnded e s).tables = s.tables := rfl
@[simp] theorem setEnded_src (e : BitVec 2) (s : State) : (setEnded e s).src = s.src := rfl
@[simp] theorem setEnded_dst (e : BitVec 2) (s : State) : (setEnded e s).dst = s.dst := rfl
@[simp] theorem setEnded_fresh (e : BitVec 2) (s : State) : (setEnded e s).fresh = s.fresh := rfl
@[simp] theorem setEnded_held (e : BitVec 2) (s : State) : (setEnded e s).held = s.held := rfl
@[simp] theorem setEnded_aliases (e : BitVec 2) (s : State) : (setEnded e s).aliases = s.aliases := rfl
@[simp] theorem setEnded_host (e : BitVec 2) (s : State) : (setEnded e s).host = s.host := rfl
@[simp] theorem setEnded_hostRead (e : BitVec 2) (s : State) : (setEnded e s).hostRead = s.hostRead := rfl
@[simp] theorem setEnded_draws (e : BitVec 2) (s : State) : (setEnded e s).draws = s.draws := rfl

/-! ### `advanceIdx` -/

@[simp] theorem advanceIdx_srcLen (s : State) : (advanceIdx s).srcLen = s.srcLen := rfl
@[simp] theorem advanceIdx_srcOff (s : State) : (advanceIdx s).srcOff = s.srcOff := rfl
@[simp] theorem advanceIdx_srcCnt (s : State) : (advanceIdx s).srcCnt = s.srcCnt := rfl
@[simp] theorem advanceIdx_dstLen (s : State) : (advanceIdx s).dstLen = s.dstLen := rfl
@[simp] theorem advanceIdx_dstOff (s : State) : (advanceIdx s).dstOff = s.dstOff := rfl
@[simp] theorem advanceIdx_result (s : State) : (advanceIdx s).result = s.result := rfl
@[simp] theorem advanceIdx_cmd (s : State) : (advanceIdx s).cmd = s.cmd := rfl
@[simp] theorem advanceIdx_status (s : State) : (advanceIdx s).status = s.status := rfl
@[simp] theorem advanceIdx_bufctl (s : State) : (advanceIdx s).bufctl = s.bufctl := rfl
@[simp] theorem advanceIdx_written (s : State) : (advanceIdx s).written = s.written := rfl
@[simp] theorem advanceIdx_idx (s : State) : (advanceIdx s).idx = s.idx + 1 := rfl
@[simp] theorem advanceIdx_outpos (s : State) : (advanceIdx s).outpos = s.outpos := rfl
@[simp] theorem advanceIdx_run (s : State) : (advanceIdx s).run = s.run := rfl
@[simp] theorem advanceIdx_tables (s : State) : (advanceIdx s).tables = s.tables := rfl
@[simp] theorem advanceIdx_src (s : State) : (advanceIdx s).src = s.src := rfl
@[simp] theorem advanceIdx_dst (s : State) : (advanceIdx s).dst = s.dst := rfl
@[simp] theorem advanceIdx_fresh (s : State) : (advanceIdx s).fresh = s.fresh := rfl
@[simp] theorem advanceIdx_held (s : State) : (advanceIdx s).held = s.held := rfl
@[simp] theorem advanceIdx_aliases (s : State) : (advanceIdx s).aliases = s.aliases := rfl
@[simp] theorem advanceIdx_host (s : State) : (advanceIdx s).host = s.host := rfl
@[simp] theorem advanceIdx_hostRead (s : State) : (advanceIdx s).hostRead = s.hostRead := rfl
@[simp] theorem advanceIdx_draws (s : State) : (advanceIdx s).draws = s.draws := rfl

/-! ### `advanceOutpos` -/

@[simp] theorem advanceOutpos_srcLen (n : Nat) (s : State) : (advanceOutpos n s).srcLen = s.srcLen := rfl
@[simp] theorem advanceOutpos_srcOff (n : Nat) (s : State) : (advanceOutpos n s).srcOff = s.srcOff := rfl
@[simp] theorem advanceOutpos_srcCnt (n : Nat) (s : State) : (advanceOutpos n s).srcCnt = s.srcCnt := rfl
@[simp] theorem advanceOutpos_dstLen (n : Nat) (s : State) : (advanceOutpos n s).dstLen = s.dstLen := rfl
@[simp] theorem advanceOutpos_dstOff (n : Nat) (s : State) : (advanceOutpos n s).dstOff = s.dstOff := rfl
@[simp] theorem advanceOutpos_result (n : Nat) (s : State) : (advanceOutpos n s).result = s.result := rfl
@[simp] theorem advanceOutpos_cmd (n : Nat) (s : State) : (advanceOutpos n s).cmd = s.cmd := rfl
@[simp] theorem advanceOutpos_status (n : Nat) (s : State) : (advanceOutpos n s).status = s.status := rfl
@[simp] theorem advanceOutpos_bufctl (n : Nat) (s : State) : (advanceOutpos n s).bufctl = s.bufctl := rfl
@[simp] theorem advanceOutpos_written (n : Nat) (s : State) : (advanceOutpos n s).written = s.written := rfl
@[simp] theorem advanceOutpos_idx (n : Nat) (s : State) : (advanceOutpos n s).idx = s.idx := rfl
@[simp] theorem advanceOutpos_outpos (n : Nat) (s : State) : (advanceOutpos n s).outpos = s.outpos + n := rfl
@[simp] theorem advanceOutpos_run (n : Nat) (s : State) : (advanceOutpos n s).run = s.run := rfl
@[simp] theorem advanceOutpos_tables (n : Nat) (s : State) : (advanceOutpos n s).tables = s.tables := rfl
@[simp] theorem advanceOutpos_src (n : Nat) (s : State) : (advanceOutpos n s).src = s.src := rfl
@[simp] theorem advanceOutpos_dst (n : Nat) (s : State) : (advanceOutpos n s).dst = s.dst := rfl
@[simp] theorem advanceOutpos_fresh (n : Nat) (s : State) : (advanceOutpos n s).fresh = s.fresh := rfl
@[simp] theorem advanceOutpos_held (n : Nat) (s : State) : (advanceOutpos n s).held = s.held := rfl
@[simp] theorem advanceOutpos_aliases (n : Nat) (s : State) : (advanceOutpos n s).aliases = s.aliases := rfl
@[simp] theorem advanceOutpos_host (n : Nat) (s : State) : (advanceOutpos n s).host = s.host := rfl
@[simp] theorem advanceOutpos_hostRead (n : Nat) (s : State) : (advanceOutpos n s).hostRead = s.hostRead := rfl
@[simp] theorem advanceOutpos_draws (n : Nat) (s : State) : (advanceOutpos n s).draws = s.draws := rfl

/-! ### `beginOp` -/

@[simp] theorem beginOp_srcLen (f : OpForm) (s : State) : (beginOp f s).srcLen = s.srcLen := rfl
@[simp] theorem beginOp_srcOff (f : OpForm) (s : State) : (beginOp f s).srcOff = s.srcOff := rfl
@[simp] theorem beginOp_srcCnt (f : OpForm) (s : State) : (beginOp f s).srcCnt = s.srcCnt := rfl
@[simp] theorem beginOp_dstLen (f : OpForm) (s : State) : (beginOp f s).dstLen = s.dstLen := rfl
@[simp] theorem beginOp_dstOff (f : OpForm) (s : State) : (beginOp f s).dstOff = s.dstOff := rfl
@[simp] theorem beginOp_result (f : OpForm) (s : State) : (beginOp f s).result = s.result := rfl
@[simp] theorem beginOp_cmd (f : OpForm) (s : State) : (beginOp f s).cmd = s.cmd := rfl
@[simp] theorem beginOp_status (f : OpForm) (s : State) : (beginOp f s).status = statusWord (statusErr s.status) true := rfl
@[simp] theorem beginOp_bufctl (f : OpForm) (s : State) : (beginOp f s).bufctl = s.bufctl := rfl
@[simp] theorem beginOp_written (f : OpForm) (s : State) : (beginOp f s).written = s.written := rfl
@[simp] theorem beginOp_idx (f : OpForm) (s : State) : (beginOp f s).idx = 0 := rfl
@[simp] theorem beginOp_outpos (f : OpForm) (s : State) : (beginOp f s).outpos = 0 := rfl
@[simp] theorem beginOp_run (f : OpForm) (s : State) : (beginOp f s).run = sample f s := rfl
@[simp] theorem beginOp_tables (f : OpForm) (s : State) : (beginOp f s).tables = s.tables := rfl
@[simp] theorem beginOp_src (f : OpForm) (s : State) : (beginOp f s).src = s.src := rfl
@[simp] theorem beginOp_dst (f : OpForm) (s : State) : (beginOp f s).dst = s.dst := rfl
@[simp] theorem beginOp_fresh (f : OpForm) (s : State) : (beginOp f s).fresh = if f.into then s.fresh else freshBuffer f.dir (needOf f.dir (effCnt f.whole s)) := rfl
@[simp] theorem beginOp_held (f : OpForm) (s : State) : (beginOp f s).held = s.held := rfl
@[simp] theorem beginOp_aliases (f : OpForm) (s : State) : (beginOp f s).aliases = s.aliases := rfl
@[simp] theorem beginOp_host (f : OpForm) (s : State) : (beginOp f s).host = s.host := rfl
@[simp] theorem beginOp_hostRead (f : OpForm) (s : State) : (beginOp f s).hostRead = s.hostRead := rfl
@[simp] theorem beginOp_draws (f : OpForm) (s : State) : (beginOp f s).draws = s.draws := rfl

/-! ### `deliver` -/

@[simp] theorem deliver_srcLen (s : State) : (deliver s).srcLen = s.srcLen := by
  unfold deliver; split <;> rfl
@[simp] theorem deliver_srcOff (s : State) : (deliver s).srcOff = s.srcOff := by
  unfold deliver; split <;> rfl
@[simp] theorem deliver_srcCnt (s : State) : (deliver s).srcCnt = s.srcCnt := by
  unfold deliver; split <;> rfl
@[simp] theorem deliver_dstLen (s : State) : (deliver s).dstLen = s.dstLen := by
  unfold deliver; split <;> rfl
@[simp] theorem deliver_dstOff (s : State) : (deliver s).dstOff = s.dstOff := by
  unfold deliver; split <;> rfl
@[simp] theorem deliver_result (s : State) : (deliver s).result = s.result := by
  unfold deliver; split <;> rfl
@[simp] theorem deliver_cmd (s : State) : (deliver s).cmd = s.cmd := by
  unfold deliver; split <;> rfl
@[simp] theorem deliver_status (s : State) : (deliver s).status = s.status := by
  unfold deliver; split <;> rfl
@[simp] theorem deliver_bufctl (s : State) : (deliver s).bufctl = s.bufctl := by
  unfold deliver; split <;> rfl
@[simp] theorem deliver_written (s : State) : (deliver s).written = s.written := by
  unfold deliver; split <;> rfl
@[simp] theorem deliver_idx (s : State) : (deliver s).idx = s.idx := by
  unfold deliver; split <;> rfl
@[simp] theorem deliver_outpos (s : State) : (deliver s).outpos = s.outpos := by
  unfold deliver; split <;> rfl
@[simp] theorem deliver_run (s : State) : (deliver s).run = s.run := by
  unfold deliver; split <;> rfl
@[simp] theorem deliver_tables (s : State) : (deliver s).tables = s.tables := by
  unfold deliver; split <;> rfl
@[simp] theorem deliver_src (s : State) : (deliver s).src = s.src := by
  unfold deliver; split <;> rfl
@[simp] theorem deliver_dst (s : State) : (deliver s).dst = s.dst := by
  unfold deliver; split <;> rfl
@[simp] theorem deliver_fresh (s : State) : (deliver s).fresh = if s.run.into then s.fresh else Buffer.absent := by
  unfold deliver; split <;> rfl
@[simp] theorem deliver_held (s : State) : (deliver s).held = if s.run.into then s.held else s.fresh :: s.held := by
  unfold deliver; split <;> rfl
@[simp] theorem deliver_aliases (s : State) : (deliver s).aliases = s.aliases := by
  unfold deliver; split <;> rfl
@[simp] theorem deliver_host (s : State) : (deliver s).host = s.host := by
  unfold deliver; split <;> rfl
@[simp] theorem deliver_hostRead (s : State) : (deliver s).hostRead = s.hostRead := by
  unfold deliver; split <;> rfl
@[simp] theorem deliver_draws (s : State) : (deliver s).draws = s.draws := by
  unfold deliver; split <;> rfl

/-! ### `State.replace .src` -/

@[simp] theorem replace_src_srcLen (v : Buffer) (s : State) : (s.replace .src v).srcLen = s.srcLen := rfl
@[simp] theorem replace_src_srcOff (v : Buffer) (s : State) : (s.replace .src v).srcOff = s.srcOff := rfl
@[simp] theorem replace_src_srcCnt (v : Buffer) (s : State) : (s.replace .src v).srcCnt = s.srcCnt := rfl
@[simp] theorem replace_src_dstLen (v : Buffer) (s : State) : (s.replace .src v).dstLen = s.dstLen := rfl
@[simp] theorem replace_src_dstOff (v : Buffer) (s : State) : (s.replace .src v).dstOff = s.dstOff := rfl
@[simp] theorem replace_src_result (v : Buffer) (s : State) : (s.replace .src v).result = s.result := rfl
@[simp] theorem replace_src_cmd (v : Buffer) (s : State) : (s.replace .src v).cmd = s.cmd := rfl
@[simp] theorem replace_src_status (v : Buffer) (s : State) : (s.replace .src v).status = s.status := rfl
@[simp] theorem replace_src_bufctl (v : Buffer) (s : State) : (s.replace .src v).bufctl = s.bufctl := rfl
@[simp] theorem replace_src_written (v : Buffer) (s : State) : (s.replace .src v).written = s.written := rfl
@[simp] theorem replace_src_idx (v : Buffer) (s : State) : (s.replace .src v).idx = s.idx := rfl
@[simp] theorem replace_src_outpos (v : Buffer) (s : State) : (s.replace .src v).outpos = s.outpos := rfl
@[simp] theorem replace_src_run (v : Buffer) (s : State) : (s.replace .src v).run = s.run := rfl
@[simp] theorem replace_src_tables (v : Buffer) (s : State) : (s.replace .src v).tables = s.tables := rfl
@[simp] theorem replace_src_src (v : Buffer) (s : State) : (s.replace .src v).src = v := rfl
@[simp] theorem replace_src_dst (v : Buffer) (s : State) : (s.replace .src v).dst = s.dst := rfl
@[simp] theorem replace_src_fresh (v : Buffer) (s : State) : (s.replace .src v).fresh = s.fresh := rfl
@[simp] theorem replace_src_held (v : Buffer) (s : State) : (s.replace .src v).held = s.held := rfl
@[simp] theorem replace_src_aliases (v : Buffer) (s : State) : (s.replace .src v).aliases = [] := rfl
@[simp] theorem replace_src_host (v : Buffer) (s : State) : (s.replace .src v).host = s.host := rfl
@[simp] theorem replace_src_hostRead (v : Buffer) (s : State) : (s.replace .src v).hostRead = s.hostRead := rfl
@[simp] theorem replace_src_draws (v : Buffer) (s : State) : (s.replace .src v).draws = s.draws := rfl

/-! ### `State.replace .dst` -/

@[simp] theorem replace_dst_srcLen (v : Buffer) (s : State) : (s.replace .dst v).srcLen = s.srcLen := rfl
@[simp] theorem replace_dst_srcOff (v : Buffer) (s : State) : (s.replace .dst v).srcOff = s.srcOff := rfl
@[simp] theorem replace_dst_srcCnt (v : Buffer) (s : State) : (s.replace .dst v).srcCnt = s.srcCnt := rfl
@[simp] theorem replace_dst_dstLen (v : Buffer) (s : State) : (s.replace .dst v).dstLen = s.dstLen := rfl
@[simp] theorem replace_dst_dstOff (v : Buffer) (s : State) : (s.replace .dst v).dstOff = s.dstOff := rfl
@[simp] theorem replace_dst_result (v : Buffer) (s : State) : (s.replace .dst v).result = s.result := rfl
@[simp] theorem replace_dst_cmd (v : Buffer) (s : State) : (s.replace .dst v).cmd = s.cmd := rfl
@[simp] theorem replace_dst_status (v : Buffer) (s : State) : (s.replace .dst v).status = s.status := rfl
@[simp] theorem replace_dst_bufctl (v : Buffer) (s : State) : (s.replace .dst v).bufctl = s.bufctl := rfl
@[simp] theorem replace_dst_written (v : Buffer) (s : State) : (s.replace .dst v).written = s.written := rfl
@[simp] theorem replace_dst_idx (v : Buffer) (s : State) : (s.replace .dst v).idx = s.idx := rfl
@[simp] theorem replace_dst_outpos (v : Buffer) (s : State) : (s.replace .dst v).outpos = s.outpos := rfl
@[simp] theorem replace_dst_run (v : Buffer) (s : State) : (s.replace .dst v).run = s.run := rfl
@[simp] theorem replace_dst_tables (v : Buffer) (s : State) : (s.replace .dst v).tables = s.tables := rfl
@[simp] theorem replace_dst_src (v : Buffer) (s : State) : (s.replace .dst v).src = s.src := rfl
@[simp] theorem replace_dst_dst (v : Buffer) (s : State) : (s.replace .dst v).dst = v := rfl
@[simp] theorem replace_dst_fresh (v : Buffer) (s : State) : (s.replace .dst v).fresh = s.fresh := rfl
@[simp] theorem replace_dst_held (v : Buffer) (s : State) : (s.replace .dst v).held = s.held := rfl
@[simp] theorem replace_dst_aliases (v : Buffer) (s : State) : (s.replace .dst v).aliases = [] := rfl
@[simp] theorem replace_dst_host (v : Buffer) (s : State) : (s.replace .dst v).host = s.host := rfl
@[simp] theorem replace_dst_hostRead (v : Buffer) (s : State) : (s.replace .dst v).hostRead = s.hostRead := rfl
@[simp] theorem replace_dst_draws (v : Buffer) (s : State) : (s.replace .dst v).draws = s.draws := rfl

/-! ### `State.replace (.held n)` -/

@[simp] theorem replace_held_srcLen (n : Nat) (v : Buffer) (s : State) : (s.replace (.held n) v).srcLen = s.srcLen := rfl
@[simp] theorem replace_held_srcOff (n : Nat) (v : Buffer) (s : State) : (s.replace (.held n) v).srcOff = s.srcOff := rfl
@[simp] theorem replace_held_srcCnt (n : Nat) (v : Buffer) (s : State) : (s.replace (.held n) v).srcCnt = s.srcCnt := rfl
@[simp] theorem replace_held_dstLen (n : Nat) (v : Buffer) (s : State) : (s.replace (.held n) v).dstLen = s.dstLen := rfl
@[simp] theorem replace_held_dstOff (n : Nat) (v : Buffer) (s : State) : (s.replace (.held n) v).dstOff = s.dstOff := rfl
@[simp] theorem replace_held_result (n : Nat) (v : Buffer) (s : State) : (s.replace (.held n) v).result = s.result := rfl
@[simp] theorem replace_held_cmd (n : Nat) (v : Buffer) (s : State) : (s.replace (.held n) v).cmd = s.cmd := rfl
@[simp] theorem replace_held_status (n : Nat) (v : Buffer) (s : State) : (s.replace (.held n) v).status = s.status := rfl
@[simp] theorem replace_held_bufctl (n : Nat) (v : Buffer) (s : State) : (s.replace (.held n) v).bufctl = s.bufctl := rfl
@[simp] theorem replace_held_written (n : Nat) (v : Buffer) (s : State) : (s.replace (.held n) v).written = s.written := rfl
@[simp] theorem replace_held_idx (n : Nat) (v : Buffer) (s : State) : (s.replace (.held n) v).idx = s.idx := rfl
@[simp] theorem replace_held_outpos (n : Nat) (v : Buffer) (s : State) : (s.replace (.held n) v).outpos = s.outpos := rfl
@[simp] theorem replace_held_run (n : Nat) (v : Buffer) (s : State) : (s.replace (.held n) v).run = s.run := rfl
@[simp] theorem replace_held_tables (n : Nat) (v : Buffer) (s : State) : (s.replace (.held n) v).tables = s.tables := rfl
@[simp] theorem replace_held_src (n : Nat) (v : Buffer) (s : State) : (s.replace (.held n) v).src = s.src := rfl
@[simp] theorem replace_held_dst (n : Nat) (v : Buffer) (s : State) : (s.replace (.held n) v).dst = s.dst := rfl
@[simp] theorem replace_held_fresh (n : Nat) (v : Buffer) (s : State) : (s.replace (.held n) v).fresh = s.fresh := rfl
@[simp] theorem replace_held_held (n : Nat) (v : Buffer) (s : State) : (s.replace (.held n) v).held = s.held.set n v := rfl
@[simp] theorem replace_held_aliases (n : Nat) (v : Buffer) (s : State) : (s.replace (.held n) v).aliases = s.aliases := rfl
@[simp] theorem replace_held_host (n : Nat) (v : Buffer) (s : State) : (s.replace (.held n) v).host = s.host := rfl
@[simp] theorem replace_held_hostRead (n : Nat) (v : Buffer) (s : State) : (s.replace (.held n) v).hostRead = s.hostRead := rfl
@[simp] theorem replace_held_draws (n : Nat) (v : Buffer) (s : State) : (s.replace (.held n) v).draws = s.draws := rfl

/-! ### `State.setDest` -/

@[simp] theorem setDest_srcLen (b : Buffer) (s : State) : (s.setDest b).srcLen = s.srcLen := by
  unfold State.setDest; split <;> rfl
@[simp] theorem setDest_srcOff (b : Buffer) (s : State) : (s.setDest b).srcOff = s.srcOff := by
  unfold State.setDest; split <;> rfl
@[simp] theorem setDest_srcCnt (b : Buffer) (s : State) : (s.setDest b).srcCnt = s.srcCnt := by
  unfold State.setDest; split <;> rfl
@[simp] theorem setDest_dstLen (b : Buffer) (s : State) : (s.setDest b).dstLen = s.dstLen := by
  unfold State.setDest; split <;> rfl
@[simp] theorem setDest_dstOff (b : Buffer) (s : State) : (s.setDest b).dstOff = s.dstOff := by
  unfold State.setDest; split <;> rfl
@[simp] theorem setDest_result (b : Buffer) (s : State) : (s.setDest b).result = s.result := by
  unfold State.setDest; split <;> rfl
@[simp] theorem setDest_cmd (b : Buffer) (s : State) : (s.setDest b).cmd = s.cmd := by
  unfold State.setDest; split <;> rfl
@[simp] theorem setDest_status (b : Buffer) (s : State) : (s.setDest b).status = s.status := by
  unfold State.setDest; split <;> rfl
@[simp] theorem setDest_bufctl (b : Buffer) (s : State) : (s.setDest b).bufctl = s.bufctl := by
  unfold State.setDest; split <;> rfl
@[simp] theorem setDest_written (b : Buffer) (s : State) : (s.setDest b).written = s.written := by
  unfold State.setDest; split <;> rfl
@[simp] theorem setDest_idx (b : Buffer) (s : State) : (s.setDest b).idx = s.idx := by
  unfold State.setDest; split <;> rfl
@[simp] theorem setDest_outpos (b : Buffer) (s : State) : (s.setDest b).outpos = s.outpos := by
  unfold State.setDest; split <;> rfl
@[simp] theorem setDest_run (b : Buffer) (s : State) : (s.setDest b).run = s.run := by
  unfold State.setDest; split <;> rfl
@[simp] theorem setDest_tables (b : Buffer) (s : State) : (s.setDest b).tables = s.tables := by
  unfold State.setDest; split <;> rfl
@[simp] theorem setDest_src (b : Buffer) (s : State) : (s.setDest b).src = s.src := by
  unfold State.setDest; split <;> rfl
@[simp] theorem setDest_dst (b : Buffer) (s : State) : (s.setDest b).dst = if s.run.into then b else s.dst := by
  unfold State.setDest; split <;> rfl
@[simp] theorem setDest_fresh (b : Buffer) (s : State) : (s.setDest b).fresh = if s.run.into then s.fresh else b := by
  unfold State.setDest; split <;> rfl
@[simp] theorem setDest_held (b : Buffer) (s : State) : (s.setDest b).held = s.held := by
  unfold State.setDest; split <;> rfl
@[simp] theorem setDest_aliases (b : Buffer) (s : State) : (s.setDest b).aliases = s.aliases := by
  unfold State.setDest; split <;> rfl
@[simp] theorem setDest_host (b : Buffer) (s : State) : (s.setDest b).host = s.host := by
  unfold State.setDest; split <;> rfl
@[simp] theorem setDest_hostRead (b : Buffer) (s : State) : (s.setDest b).hostRead = s.hostRead := by
  unfold State.setDest; split <;> rfl
@[simp] theorem setDest_draws (b : Buffer) (s : State) : (s.setDest b).draws = s.draws := by
  unfold State.setDest; split <;> rfl

/-! ### `resetRegisters` -/

@[simp] theorem resetRegisters_srcLen (s : State) : (resetRegisters s).srcLen = State.reset.srcLen := rfl
@[simp] theorem resetRegisters_srcOff (s : State) : (resetRegisters s).srcOff = State.reset.srcOff := rfl
@[simp] theorem resetRegisters_srcCnt (s : State) : (resetRegisters s).srcCnt = State.reset.srcCnt := rfl
@[simp] theorem resetRegisters_dstLen (s : State) : (resetRegisters s).dstLen = State.reset.dstLen := rfl
@[simp] theorem resetRegisters_dstOff (s : State) : (resetRegisters s).dstOff = State.reset.dstOff := rfl
@[simp] theorem resetRegisters_result (s : State) : (resetRegisters s).result = State.reset.result := rfl
@[simp] theorem resetRegisters_cmd (s : State) : (resetRegisters s).cmd = State.reset.cmd := rfl
@[simp] theorem resetRegisters_status (s : State) : (resetRegisters s).status = State.reset.status := rfl
@[simp] theorem resetRegisters_bufctl (s : State) : (resetRegisters s).bufctl = State.reset.bufctl := rfl
@[simp] theorem resetRegisters_written (s : State) : (resetRegisters s).written = State.reset.written := rfl
@[simp] theorem resetRegisters_idx (s : State) : (resetRegisters s).idx = State.reset.idx := rfl
@[simp] theorem resetRegisters_outpos (s : State) : (resetRegisters s).outpos = State.reset.outpos := rfl
@[simp] theorem resetRegisters_run (s : State) : (resetRegisters s).run = State.reset.run := rfl
@[simp] theorem resetRegisters_tables (s : State) : (resetRegisters s).tables = s.tables := rfl
@[simp] theorem resetRegisters_src (s : State) : (resetRegisters s).src = s.src := rfl
@[simp] theorem resetRegisters_dst (s : State) : (resetRegisters s).dst = s.dst := rfl
@[simp] theorem resetRegisters_fresh (s : State) : (resetRegisters s).fresh = s.fresh := rfl
@[simp] theorem resetRegisters_held (s : State) : (resetRegisters s).held = s.held := rfl
@[simp] theorem resetRegisters_aliases (s : State) : (resetRegisters s).aliases = s.aliases := rfl
@[simp] theorem resetRegisters_host (s : State) : (resetRegisters s).host = s.host := rfl
@[simp] theorem resetRegisters_hostRead (s : State) : (resetRegisters s).hostRead = s.hostRead := rfl
@[simp] theorem resetRegisters_draws (s : State) : (resetRegisters s).draws = s.draws := rfl

/-! ### The destination after an update -/

@[simp] theorem setDest_dest (b : Buffer) (s : State) : (s.setDest b).dest = b := by
  unfold State.dest State.setDest
  split <;> simp_all

@[simp] theorem advanceIdx_dest (s : State) : (advanceIdx s).dest = s.dest := rfl

@[simp] theorem advanceOutpos_dest (n : Nat) (s : State) : (advanceOutpos n s).dest = s.dest := rfl

@[simp] theorem setEnded_dest (e : BitVec 2) (s : State) : (setEnded e s).dest = s.dest := rfl

theorem setDest_setDest (b b' : Buffer) (s : State) : (s.setDest b).setDest b' = s.setDest b' := by
  unfold State.setDest
  split <;> simp_all

theorem setDest_self (s : State) : s.setDest s.dest = s := by
  unfold State.setDest State.dest
  split <;> rfl

/-! ### The fields of `STATUS` -/

@[simp] theorem statusBusy_word (e : BitVec 2) (b : Bool) : statusBusy (statusWord e b) = b := by
  revert e b
  decide

@[simp] theorem statusErr_word (e : BitVec 2) (b : Bool) : statusErr (statusWord e b) = e := by
  revert e b
  decide

@[simp] theorem statusReserved_word (e : BitVec 2) (b : Bool) : statusReserved (statusWord e b) = 0 := by
  revert e b
  decide

/-- A status register with its reserved bits 0 is made of its two fields. -/
theorem statusWord_fields (st : Byte) (h : statusReserved st = 0) : statusWord (statusErr st) (statusBusy st) = st := by
  revert st
  decide

@[simp] theorem busy_setBusy (s : State) : busy (setBusy s) = true := by simp [busy]

@[simp] theorem busy_setEnded (e : BitVec 2) (s : State) : busy (setEnded e s) = false := by simp [busy]

@[simp] theorem busy_beginOp (f : OpForm) (s : State) : busy (beginOp f s) = true := by simp [busy]

@[simp] theorem busy_advanceIdx (s : State) : busy (advanceIdx s) = busy s := rfl

@[simp] theorem busy_advanceOutpos (n : Nat) (s : State) : busy (advanceOutpos n s) = busy s := rfl

@[simp] theorem busy_deliver (s : State) : busy (deliver s) = busy s := by simp [busy]

@[simp] theorem busy_setDest (b : Buffer) (s : State) : busy (s.setDest b) = busy s := by simp [busy]

end Sys2Proof.Machine
end

