-- ==== Sys2Proof/Laws/Launch.lean ====
section
/-! SUPPORT. What a launch can do, said once: the checks and the premises in the terms of `Safety.lean`, and the cases of
`launch`, `query`, `convert` and `maxQuery`. -/

namespace Sys2Proof.Machine

/-- The comparison of rules R142 and R143 passes exactly when the range fits. -/
theorem rangeFails_eq_false {off cnt len : Nat} : rangeFails off cnt len = false ↔ off + cnt ≤ len := by
  simp only [rangeFails, Bool.or_eq_false_iff, decide_eq_false_iff_not]
  omega

theorem rangeFails_eq_true {off cnt len : Nat} : rangeFails off cnt len = true ↔ ¬ off + cnt ≤ len := by
  rw [← rangeFails_eq_false, Bool.not_eq_false]

theorem lengthsTrue_iff {f : OpForm} {s : State} : lengthsTrue f s = true ↔ LengthsTrue f s := by
  simp only [lengthsTrue, LengthsTrue]
  cases srcPresent s <;> cases f.into <;> cases dstPresent s <;> simp

theorem disjoint_iff {f : OpForm} {s : State} : disjoint f s = true ↔ BuffersDisjoint f s := by
  simp only [disjoint, BuffersDisjoint]
  cases srcPresent s <;> cases f.into <;> cases dstPresent s <;> simp [pairOverlaps]

/-- No premise fails exactly when all hold (R163). -/
theorem premiseFailure_eq_none {f : OpForm} {s : State} : premiseFailure f s = none ↔ LaunchPremises f s := by
  unfold premiseFailure LaunchPremises
  rw [← lengthsTrue_iff, ← disjoint_iff]
  simp only [Idle, BufctlLegal]
  split
  · simp_all
  · split
    · simp_all
    · cases lengthsTrue f s <;> cases disjoint f s <;> simp_all

/-- No check fails exactly when the buffers are present and both ranges fit (R141 to R143). -/
theorem checkFailure_eq_none {f : OpForm} {s : State} :
    checkFailure f s = none ↔ BuffersPresent f s ∧ SourceFits f s ∧ DestFits f s := by
  unfold checkFailure BuffersPresent SourceFits DestFits
  rw [← rangeFails_eq_false, ← rangeFails_eq_false (off := s.dstOff)]
  cases srcPresent s <;> cases f.into <;> cases dstPresent s <;>
    cases rangeFails (effOff f.whole s) (effCnt f.whole s) s.srcLen <;>
    cases rangeFails s.dstOff (needOf f.dir (effCnt f.whole s)) s.dstLen <;> simp

/-- The end of a conversion: `RESULT`, `STATUS`, and the fresh destination of an allocating form handed over. -/
theorem finishOp_eq (s : State) : finishOp s = .next { deliver s with result := s.run.need, status := 0 } := rfl

/-- A launch is refused, raises an error, or begins. -/
theorem launch_cases (f : OpForm) (s : State) :
    (∃ r, premiseFailure f s = some r ∧ launch f s = .refused r) ∨
    (∃ e, LaunchPremises f s ∧ checkFailure f s = some e ∧ launch f s = .next (setEnded (errCode e) s)) ∨
    (LaunchPremises f s ∧ checkFailure f s = none ∧ launch f s = .next (beginOp f s)) := by
  unfold launch
  cases hp : premiseFailure f s with
  | some r => exact .inl ⟨r, rfl, rfl⟩
  | none =>
    have hp' := premiseFailure_eq_none.mp hp
    cases hc : checkFailure f s with
    | some e => exact .inr (.inl ⟨e, hp', rfl, rfl⟩)
    | none => exact .inr (.inr ⟨hp', rfl, rfl⟩)

/-- A query is refused, raises an error, or answers the length. -/
theorem query_cases (f : OpForm) (s : State) :
    (∃ r, premiseFailure f s = some r ∧ query f s = .refused r) ∨
    (∃ e, LaunchPremises f s ∧ checkFailure f s = some e ∧ query f s = .next (setEnded (errCode e) s)) ∨
    (LaunchPremises f s ∧ checkFailure f s = none ∧ query f s = finishWith (needOf f.dir (effCnt f.whole s)) s) := by
  unfold query
  cases hp : premiseFailure f s with
  | some r => exact .inl ⟨r, rfl, rfl⟩
  | none =>
    have hp' := premiseFailure_eq_none.mp hp
    cases hc : checkFailure f s with
    | some e => exact .inr (.inl ⟨e, hp', rfl, rfl⟩)
    | none => exact .inr (.inr ⟨hp', rfl, rfl⟩)

/-- A conversion is refused, raises an error, or is its steps and its end. -/
theorem convert_cases (f : OpForm) (g : State → Outcome) (s : State) :
    (∃ r, premiseFailure f s = some r ∧ convert f g s = .refused r) ∨
    (∃ e, LaunchPremises f s ∧ checkFailure f s = some e ∧ convert f g s = .next (setEnded (errCode e) s)) ∨
    (LaunchPremises f s ∧ checkFailure f s = none ∧
      convert f g s = andThen (repeatStep g (effCnt f.whole s) (beginOp f s)) finishOp) := by
  unfold convert
  cases hp : premiseFailure f s with
  | some r => exact .inl ⟨r, rfl, rfl⟩
  | none =>
    have hp' := premiseFailure_eq_none.mp hp
    cases hc : checkFailure f s with
    | some e => exact .inr (.inl ⟨e, hp', rfl, rfl⟩)
    | none => exact .inr (.inr ⟨hp', rfl, rfl⟩)

/-- A Max query is refused or answers the length of `SRC_CNT`. -/
theorem maxQuery_cases (dir : Dir) (whole : Bool) (s : State) :
    (whole = true ∧ maxQuery dir whole s = .refused .reservedCommand) ∨
    (whole = false ∧ busy s = true ∧ maxQuery dir whole s = .refused .launchWhileBusy) ∨
    (whole = false ∧ Idle s ∧ ¬ BufctlLegal s ∧ maxQuery dir whole s = .refused .reservedBufctl) ∨
    (whole = false ∧ Idle s ∧ BufctlLegal s ∧ maxQuery dir whole s = finishWith (needOf dir s.srcCnt) s) := by
  unfold maxQuery
  split
  · next h => exact .inl ⟨h, rfl⟩
  · next h =>
    have hw := Bool.eq_false_iff.mpr h
    split
    · next hb => exact .inr (.inl ⟨hw, hb, rfl⟩)
    · next hb =>
      have hi : Idle s := Bool.eq_false_iff.mpr hb
      split
      · next hl => exact .inr (.inr (.inl ⟨hw, hi, hl, rfl⟩))
      · next hl => exact .inr (.inr (.inr ⟨hw, hi, not_not.mp hl, rfl⟩))

end Sys2Proof.Machine
end

