-- ==== Sys2Proof/Laws/Memory.lean ====
section
/-! SUPPORT. Laws of one side of a buffer: every operation keeps the canonical form, a read after a write to the same
element gives what was written, a write leaves every other element alone, and a canonical side is what it reads as. -/

namespace Sys2Proof.Machine

section Cells

variable {w : Nat}

theorem cellsWf_mono {size lo lo' : Nat} (h : lo' ≤ lo) :
    ∀ {l : List (Nat × BitVec w)}, cellsWf size lo l = true → cellsWf size lo' l = true
  | [], _ => rfl
  | (a, v) :: rest, hl => by
    simp only [cellsWf, Bool.and_eq_true, decide_eq_true_eq] at hl ⊢
    exact ⟨⟨⟨h.trans hl.1.1.1, hl.1.1.2⟩, hl.1.2⟩, hl.2⟩

theorem cellsRead_below {size : Nat} :
    ∀ {lo k : Nat} {l : List (Nat × BitVec w)}, cellsWf size lo l = true → k < lo → cellsRead l k = 0
  | _, _, [], _, _ => rfl
  | lo, k, (a, v) :: rest, hl, hk => by
    simp only [cellsWf, Bool.and_eq_true, decide_eq_true_eq] at hl
    have hne : a ≠ k := by omega
    simp only [cellsRead, hne, if_false]
    exact cellsRead_below hl.2 (by omega)

theorem cellsRead_write_other {k j : Nat} (v : BitVec w) (h : j ≠ k) :
    ∀ l : List (Nat × BitVec w), cellsRead (cellsWrite l k v) j = cellsRead l j
  | [] => by
    unfold cellsWrite
    split <;> simp [cellsRead, h.symm]
  | (a, x) :: rest => by
    unfold cellsWrite
    split
    · split <;> simp [cellsRead, h.symm]
    · split
      · next hka =>
        have : a ≠ j := by omega
        split <;> simp [cellsRead, this, h.symm]
      · simp only [cellsRead, cellsRead_write_other v h rest]

theorem cellsRead_write_same {size : Nat} {k : Nat} (v : BitVec w) :
    ∀ {lo : Nat} {l : List (Nat × BitVec w)}, cellsWf size lo l = true → cellsRead (cellsWrite l k v) k = v
  | _, [], _ => by
    unfold cellsWrite
    split
    · next h => simp [cellsRead, h]
    · simp [cellsRead]
  | lo, (a, x) :: rest, hl => by
    simp only [cellsWf, Bool.and_eq_true, decide_eq_true_eq] at hl
    unfold cellsWrite
    split
    · next hka =>
      split
      · next hv =>
        have hne : a ≠ k := by omega
        simp only [cellsRead, hne, if_false, hv]
        exact cellsRead_below hl.2 (by omega)
      · simp [cellsRead]
    · split
      · next hka =>
        split
        · next hv => rw [cellsRead_below hl.2 (by omega), hv]
        · simp [cellsRead]
      · next hka =>
        have hne : a ≠ k := by omega
        simp only [cellsRead, hne, if_false]
        exact cellsRead_write_same v hl.2

theorem cellsWf_write {size : Nat} {k : Nat} (v : BitVec w) (hk : k < size) :
    ∀ {lo : Nat} {l : List (Nat × BitVec w)}, cellsWf size lo l = true → lo ≤ k →
      cellsWf size lo (cellsWrite l k v) = true
  | lo, [], _, hlo => by
    unfold cellsWrite
    split
    · rfl
    · next hv => simpa [cellsWf, hlo, hk] using hv
  | lo, (a, x) :: rest, hl, hlo => by
    have hl' := hl
    simp only [cellsWf, Bool.and_eq_true, decide_eq_true_eq] at hl
    unfold cellsWrite
    split
    · next hka =>
      split
      · exact hl'
      · next hv =>
        simp only [cellsWf, Bool.and_eq_true, decide_eq_true_eq]
        exact ⟨⟨⟨hlo, hk⟩, hv⟩, ⟨⟨by omega, hl.1.1.2⟩, hl.1.2⟩, hl.2⟩
    · split
      · next hka =>
        split
        · exact cellsWf_mono (by omega) hl.2
        · next hv =>
          simp only [cellsWf, Bool.and_eq_true, decide_eq_true_eq]
          exact ⟨⟨⟨hlo, hk⟩, hv⟩, hka ▸ hl.2⟩
      · next hka =>
        simp only [cellsWf, Bool.and_eq_true, decide_eq_true_eq]
        exact ⟨hl.1, cellsWf_write v hk hl.2 (by omega)⟩

theorem cellsWf_ofList (elems : List (BitVec w)) :
    ∀ lo : Nat, cellsWf (lo + elems.length) lo (cellsOfList lo elems) = true := by
  induction elems with
  | nil => intro lo; rfl
  | cons v rest ih =>
    intro lo
    have hs : lo + (v :: rest).length = lo + 1 + rest.length := by simp only [List.length_cons]; omega
    unfold cellsOfList
    split
    · rw [hs]
      exact cellsWf_mono (by omega) (ih (lo + 1))
    · next hv =>
      simp only [cellsWf, Bool.and_eq_true, decide_eq_true_eq]
      refine ⟨⟨⟨le_refl _, by simp⟩, hv⟩, ?_⟩
      rw [hs]
      exact ih (lo + 1)

theorem cellsRead_ofList (elems : List (BitVec w)) :
    ∀ lo j : Nat, cellsRead (cellsOfList lo elems) (lo + j) = elems.getD j 0 := by
  induction elems with
  | nil => intro lo j; rfl
  | cons v rest ih =>
    intro lo j
    unfold cellsOfList
    cases j with
    | zero =>
      split
      · next hv =>
        simp only [Nat.add_zero, List.getD_cons_zero, hv]
        exact cellsRead_below (cellsWf_ofList rest (lo + 1)) (by omega)
      · simp [cellsRead]
    | succ j =>
      have hj : lo + (j + 1) = lo + 1 + j := by omega
      split
      · rw [hj, ih, List.getD_cons_succ]
      · have hne : lo ≠ lo + 1 + j := by omega
        rw [hj]
        simp only [cellsRead, hne, if_false, List.getD_cons_succ]
        exact ih (lo + 1) j

/-- Canonical listings that read the same are the same. -/
theorem cells_ext {size : Nat} :
    ∀ {lo : Nat} {l l' : List (Nat × BitVec w)}, cellsWf size lo l = true → cellsWf size lo l' = true →
      (∀ k, k < size → cellsRead l k = cellsRead l' k) → l = l'
  | _, [], [], _, _, _ => rfl
  | _, [], (a, v) :: rest, _, h', he => by
    simp only [cellsWf, Bool.and_eq_true, decide_eq_true_eq] at h'
    exact absurd (by simpa [cellsRead] using (he a h'.1.1.2).symm) h'.1.2
  | _, (a, v) :: rest, [], h, _, he => by
    simp only [cellsWf, Bool.and_eq_true, decide_eq_true_eq] at h
    exact absurd (by simpa [cellsRead] using he a h.1.1.2) h.1.2
  | lo, (a, v) :: rest, (b, u) :: rest', h, h', he => by
    simp only [cellsWf, Bool.and_eq_true, decide_eq_true_eq] at h h'
    have hab : a = b := by
      rcases lt_trichotomy a b with hlt | heq | hgt
      · have h1 := he a h.1.1.2
        have h2 : b ≠ a := by omega
        simp only [cellsRead, if_true, h2, if_false] at h1
        rw [cellsRead_below h'.2 (by omega)] at h1
        exact absurd h1 h.1.2
      · exact heq
      · have h1 := he b h'.1.1.2
        have h2 : a ≠ b := by omega
        simp only [cellsRead, if_true, h2, if_false] at h1
        rw [cellsRead_below h.2 (by omega)] at h1
        exact absurd h1.symm h'.1.2
    subst hab
    have hvu : v = u := by simpa [cellsRead] using he a h.1.1.2
    subst hvu
    have hr : rest = rest' := by
      refine cells_ext h.2 h'.2 fun k hk => ?_
      by_cases hka : a = k
      · subst hka
        rw [cellsRead_below h.2 (by omega), cellsRead_below h'.2 (by omega)]
      · simpa [cellsRead, hka] using he k hk
    rw [hr]

end Cells

section Memory

variable {w : Nat}

@[simp] theorem Memory.put_size (m : Memory w) (k : Nat) (v : BitVec w) : (m.put k v).size = m.size := by
  unfold Memory.put
  split <;> rfl

@[simp] theorem Memory.zeros_size (n : Nat) : (Memory.zeros n : Memory w).size = n := rfl

@[simp] theorem Memory.ofList_size (elems : List (BitVec w)) : (Memory.ofList elems).size = elems.length := rfl

@[simp] theorem Memory.slice_length (m : Memory w) (off cnt : Nat) : (m.slice off cnt).length = cnt := by
  simp [Memory.slice]

@[simp] theorem Memory.toList_length (m : Memory w) : m.toList.length = m.size := by simp [Memory.toList]

theorem Memory.put_wf {m : Memory w} (h : m.wf = true) (k : Nat) (v : BitVec w) : (m.put k v).wf = true := by
  unfold Memory.put
  split
  · next hk => exact cellsWf_write v hk h (Nat.zero_le k)
  · exact h

@[simp] theorem Memory.zeros_wf (n : Nat) : (Memory.zeros n : Memory w).wf = true := rfl

@[simp] theorem Memory.ofList_wf (elems : List (BitVec w)) : (Memory.ofList elems).wf = true := by
  simpa [Memory.wf, Memory.ofList] using cellsWf_ofList elems 0

theorem Memory.read_some {m : Memory w} {k : Nat} (h : k < m.size) : m.read k = some (cellsRead m.cells k) := by
  simp [Memory.read, h]

theorem Memory.read_none {m : Memory w} {k : Nat} (h : m.size ≤ k) : m.read k = none := by
  simp [Memory.read, Nat.not_lt.mpr h]

theorem Memory.read_eq_some {m : Memory w} {k : Nat} {v : BitVec w} :
    m.read k = some v ↔ k < m.size ∧ cellsRead m.cells k = v := by
  unfold Memory.read
  split <;> simp_all

theorem Memory.read_put_same {m : Memory w} (hm : m.wf = true) {k : Nat} (hk : k < m.size) (v : BitVec w) :
    (m.put k v).read k = some v := by
  rw [Memory.read_some (by simpa using hk)]
  simp only [Memory.put, hk, if_true]
  rw [cellsRead_write_same v hm]

theorem Memory.read_put_other (m : Memory w) {j k : Nat} (h : j ≠ k) (v : BitVec w) :
    (m.put k v).read j = m.read j := by
  unfold Memory.put
  split
  · simp [Memory.read, cellsRead_write_other v h]
  · rfl

theorem Memory.slice_eq_map_read (m : Memory w) {off cnt : Nat} (h : off + cnt ≤ m.size) :
    (m.slice off cnt).map some = (List.range cnt).map fun j => m.read (off + j) := by
  simp only [Memory.slice, List.map_map]
  refine List.map_congr_left fun j hj => ?_
  have : j < cnt := List.mem_range.mp hj
  simp [Memory.read_some (show off + j < m.size by omega)]

@[simp] theorem Memory.toList_ofList (elems : List (BitVec w)) : (Memory.ofList elems).toList = elems := by
  refine List.ext_getElem (by simp) fun j h1 h2 => ?_
  have := cellsRead_ofList elems 0 j
  simp only [Nat.zero_add] at this
  simp [Memory.toList, Memory.slice, Memory.ofList, this, h2]

theorem Memory.getElem_toList (m : Memory w) {k : Nat} (h : k < m.toList.length) :
    m.toList[k] = cellsRead m.cells k := by
  simp [Memory.toList, Memory.slice]

/-- Canonical sides that hold the same elements are the same. -/
theorem Memory.ext_toList {m m' : Memory w} (h : m.wf = true) (h' : m'.wf = true) (he : m.toList = m'.toList) :
    m = m' := by
  have hs : m.size = m'.size := by simpa using congrArg List.length he
  have hc : m.cells = m'.cells := by
    refine cells_ext h (hs ▸ h') fun k hk => ?_
    have h1 : k < m.toList.length := by simpa using hk
    have h2 : k < m'.toList.length := by simpa [← hs] using hk
    rw [← m.getElem_toList h1, ← m'.getElem_toList h2]
    simp [he]
  cases m
  cases m'
  simp_all

end Memory

section Buffer

theorem bufferOf_wf (c : Contents) : (bufferOf c).wf = true := by
  cases c <;> simp [bufferOf, Buffer.wf]

theorem freshBuffer_wf (dir : Dir) (n : Nat) : (freshBuffer dir n).wf = true := by
  cases dir <;> simp [freshBuffer, Buffer.wf]

theorem Buffer.absent_wf : Buffer.absent.wf = true := rfl

@[simp] theorem destSize_freshBuffer (dir : Dir) (n : Nat) : destSize dir (freshBuffer dir n) = n := by
  cases dir <;> rfl

end Buffer

end Sys2Proof.Machine
end

