-- ==== Sys2Proof/Laws/Ops.lean ====
section
/-! SUPPORT. What each shared operation can do, said once: where a read or a write of an element goes on, what it leaves
in the destination, and what each step comes to when its elements exist. -/

namespace Sys2Proof.Machine

@[simp] theorem andThen_next (s : State) (f : State → Outcome) : andThen (.next s) f = f s := rfl

theorem andThen_eq_next {o : Outcome} {f : State → Outcome} {t : State} :
    andThen o f = .next t ↔ ∃ s, o = .next s ∧ f s = .next t := by
  cases o <;> simp [andThen]

theorem andThen_assoc (o : Outcome) (f g : State → Outcome) :
    andThen (andThen o f) g = andThen o fun s => andThen (f s) g := by
  cases o <;> rfl

@[simp] theorem repeatStep_zero (f : State → Outcome) (s : State) : repeatStep f 0 s = .next s := rfl

/-- `n + 1` times is `n` times and once more. -/
theorem repeatStep_succ (f : State → Outcome) (n : Nat) :
    ∀ s, repeatStep f (n + 1) s = andThen (repeatStep f n s) f := by
  induction n with
  | zero => intro s; cases h : f s <;> simp [repeatStep, andThen, h]
  | succ n ih =>
    intro s
    change andThen (f s) (repeatStep f (n + 1)) = andThen (andThen (f s) (repeatStep f n)) f
    rw [funext ih, andThen_assoc]

/-! ### Writing the destination -/

@[simp] theorem putDestByte_dest (s : State) (k : Nat) (v : Byte) :
    (s.putDestByte k v).dest = { s.dest with bytes := s.dest.bytes.put k v } := by
  simp [State.putDestByte]

@[simp] theorem putDestText_dest (s : State) (k : Nat) (c : CodePoint) :
    (s.putDestText k c).dest = { s.dest with text := s.dest.text.put k c } := by
  simp [State.putDestText]

/-- A write of a byte changes the destination and nothing else. -/
theorem putDestByte_eq (s : State) (k : Nat) (v : Byte) : s.putDestByte k v = s.setDest (s.putDestByte k v).dest := by
  rw [putDestByte_dest]
  rfl

theorem putDestText_eq (s : State) (k : Nat) (c : CodePoint) :
    s.putDestText k c = s.setDest (s.putDestText k c).dest := by
  rw [putDestText_dest]
  rfl

theorem writeDestByte_next {s : State} {k : Nat} (h : k < s.dest.bytes.size) (v : Byte) :
    writeDestByte s k v = .next (s.putDestByte k v) := by
  simp [writeDestByte, h]

theorem writeDestText_next {s : State} {k : Nat} (h : k < s.dest.text.size) (c : CodePoint) :
    writeDestText s k c = .next (s.putDestText k c) := by
  simp [writeDestText, h]

/-- A write of a byte that goes on was at an element that exists. -/
theorem writeDestByte_eq_next {s t : State} {k : Nat} {v : Byte} :
    writeDestByte s k v = .next t ↔ k < s.dest.bytes.size ∧ t = s.putDestByte k v := by
  unfold writeDestByte
  split <;> simp_all [eq_comm]

theorem writeDestText_eq_next {s t : State} {k : Nat} {c : CodePoint} :
    writeDestText s k c = .next t ↔ k < s.dest.text.size ∧ t = s.putDestText k c := by
  unfold writeDestText
  split <;> simp_all [eq_comm]

/-! ### Reading an element -/

theorem withSrcText_some {s : State} {k : Nat} {c : CodePoint} (h : s.src.text.read k = some c)
    (f : CodePoint → Outcome) : withSrcText s k f = f c := by
  simp [withSrcText, h]

theorem withSrcByte_some {s : State} {k : Nat} {b : Byte} (h : s.src.bytes.read k = some b) (f : Byte → Outcome) :
    withSrcByte s k f = f b := by
  simp [withSrcByte, h]

theorem withPrevByte_some {s : State} {k : Nat} {b : Byte} (h : s.src.bytes.read k = some b) (f : Byte → Outcome) :
    withPrevByte s (k + 1) f = f b := by
  simp [withPrevByte, withSrcByte_some h]

theorem withDestByte_some {s : State} {k : Nat} {b : Byte} (h : s.dest.bytes.read k = some b) (f : Byte → Outcome) :
    withDestByte s k f = f b := by
  simp [withDestByte, h]

theorem withSrcText_eq_next {s t : State} {k : Nat} {f : CodePoint → Outcome} :
    withSrcText s k f = .next t ↔ ∃ c, s.src.text.read k = some c ∧ f c = .next t := by
  unfold withSrcText
  cases s.src.text.read k <;> simp

theorem withSrcByte_eq_next {s t : State} {k : Nat} {f : Byte → Outcome} :
    withSrcByte s k f = .next t ↔ ∃ b, s.src.bytes.read k = some b ∧ f b = .next t := by
  unfold withSrcByte
  cases s.src.bytes.read k <;> simp

theorem withPrevByte_eq_next {s t : State} {k : Nat} {f : Byte → Outcome} :
    withPrevByte s k f = .next t ↔ ∃ j b, k = j + 1 ∧ s.src.bytes.read j = some b ∧ f b = .next t := by
  cases k with
  | zero => simp [withPrevByte]
  | succ k => simp [withPrevByte, withSrcByte_eq_next]

theorem withDestByte_eq_next {s t : State} {k : Nat} {f : Byte → Outcome} :
    withDestByte s k f = .next t ↔ ∃ b, s.dest.bytes.read k = some b ∧ f b = .next t := by
  unfold withDestByte
  cases s.dest.bytes.read k <;> simp

/-! ### The host's buffers -/

theorem buffer_replace_same (s : State) (b : BufferName) (v : Buffer) (h : ∀ n, b = .held n → n < s.held.length) :
    (s.replace b v).buffer b = v := by
  cases b with
  | src => rfl
  | dst => rfl
  | held n => simp [State.replace, State.buffer, h n rfl]

theorem buffer_replace_other (s : State) {a b : BufferName} (v : Buffer) (h : a ≠ b) :
    (s.replace b v).buffer a = s.buffer a := by
  cases b <;> cases a <;> simp_all [State.replace, State.buffer, List.getElem?_set]
  next n m => simp [show n ≠ m from fun e => h e.symm]

/-- A replacement changes the buffers and the sharing, and no other part of the state. -/
theorem replace_eq (s : State) (b : BufferName) (v : Buffer) :
    s.replace b v = { s with src := (s.replace b v).src, dst := (s.replace b v).dst,
                             held := (s.replace b v).held, aliases := (s.replace b v).aliases } := by
  cases b <;> rfl

/-- New storage for `SRC` or `DST` shares none with the other; a held buffer is neither. -/
theorem replace_aliases (s : State) (b : BufferName) (v : Buffer) :
    (b = .src ∨ b = .dst → (s.replace b v).aliases = []) ∧
      (∀ n, b = .held n → (s.replace b v).aliases = s.aliases) := by
  cases b <;> simp [State.replace]

theorem replace_held_length (s : State) (b : BufferName) (v : Buffer) :
    (s.replace b v).held.length = s.held.length := by
  cases b <;> simp [State.replace]

@[simp] theorem hostReadElem_some {w : Nat} (v free : BitVec w) (s : State) :
    hostReadElem (some v) free s = { s with hostRead := v.toNat } := rfl

@[simp] theorem hostReadElem_none {w : Nat} (free : BitVec w) (s : State) :
    hostReadElem none free s = { s with hostRead := free.toNat, draws := s.draws + 1 } := rfl

/-! ### What a step that goes on has done -/

section Inversion

variable {s t : State}

/-- `EMIT v` goes on exactly where the element exists, and writes it. -/
theorem emitSymbol_eq_next {v : Sym6} :
    emitSymbol v s = .next t ↔
      outAddr s < s.dest.text.size ∧ t = advanceOutpos 1 (s.putDestText (outAddr s) (xlateOut s.tables v)) := by
  unfold emitSymbol
  rw [andThen_eq_next]
  constructor
  · rintro ⟨u, hu, ht⟩
    obtain ⟨hk, rfl⟩ := writeDestText_eq_next.mp hu
    exact ⟨hk, (Host.Outcome.next.inj ht).symm⟩
  · rintro ⟨hk, rfl⟩
    exact ⟨_, writeDestText_next hk _, rfl⟩

/-- ENC.P0 goes on exactly where its elements exist, and then does what rule R80 says. -/
theorem execEncP0_eq_next :
    execEncP0 s = .next t ↔ ∃ c, s.src.text.read (s.run.off + s.idx) = some c ∧ outAddr s < s.dest.bytes.size ∧
      t = advanceIdx (s.putDestByte (outAddr s) (join62 (xlateIn s.tables c) 0)) := by
  simp only [execEncP0, withSymbol, withSrcText_eq_next, andThen_eq_next, writeDestByte_eq_next]
  constructor
  · rintro ⟨c, hc, u, ⟨ho, rfl⟩, h⟩
    exact ⟨c, hc, ho, (Host.Outcome.next.inj h).symm⟩
  · rintro ⟨c, hc, ho, rfl⟩
    exact ⟨c, hc, _, ⟨ho, rfl⟩, rfl⟩

/-- ENC.P1 goes on exactly where its elements exist, and then does what rule R81 says. -/
theorem execEncP1_eq_next :
    execEncP1 s = .next t ↔ ∃ c b, s.src.text.read (s.run.off + s.idx) = some c ∧
      s.dest.bytes.read (outAddr s) = some b ∧ outAddr s + 1 < s.dest.bytes.size ∧
      t = advanceIdx ((s.putDestByte (outAddr s) (setLow2 b (symTop2 (xlateIn s.tables c)))).putDestByte (outAddr s + 1)
        (join44 (symLow4 (xlateIn s.tables c)) 0)) := by
  simp only [execEncP1, withSymbol, withSrcText_eq_next, withDestByte_eq_next, andThen_eq_next, writeDestByte_eq_next]
  constructor
  · rintro ⟨c, hc, b, hb, u, ⟨ho, rfl⟩, v, ⟨ho', rfl⟩, h⟩
    exact ⟨c, b, hc, hb, by simpa using ho', (Host.Outcome.next.inj h).symm⟩
  · rintro ⟨c, b, hc, hb, ho, rfl⟩
    exact ⟨c, hc, b, hb, _, ⟨by omega, rfl⟩, _, ⟨by simpa using ho, rfl⟩, rfl⟩

/-- ENC.P2 goes on exactly where its elements exist, and then does what rule R82 says. -/
theorem execEncP2_eq_next :
    execEncP2 s = .next t ↔ ∃ c b, s.src.text.read (s.run.off + s.idx) = some c ∧
      s.dest.bytes.read (outAddr s + 1) = some b ∧ outAddr s + 2 < s.dest.bytes.size ∧
      t = advanceIdx ((s.putDestByte (outAddr s + 1) (setLow4 b (symTop4 (xlateIn s.tables c)))).putDestByte
        (outAddr s + 2) (join26 (symLow2 (xlateIn s.tables c)) 0)) := by
  simp only [execEncP2, withSymbol, withSrcText_eq_next, withDestByte_eq_next, andThen_eq_next, writeDestByte_eq_next]
  constructor
  · rintro ⟨c, hc, b, hb, u, ⟨ho, rfl⟩, v, ⟨ho', rfl⟩, h⟩
    exact ⟨c, b, hc, hb, by simpa using ho', (Host.Outcome.next.inj h).symm⟩
  · rintro ⟨c, b, hc, hb, ho, rfl⟩
    exact ⟨c, hc, b, hb, _, ⟨by omega, rfl⟩, _, ⟨by simpa using ho, rfl⟩, rfl⟩

/-- ENC.P3 goes on exactly where its elements exist, and then does what rule R83 says. -/
theorem execEncP3_eq_next :
    execEncP3 s = .next t ↔ ∃ c b, s.src.text.read (s.run.off + s.idx) = some c ∧
      s.dest.bytes.read (outAddr s + 2) = some b ∧
      t = advanceIdx (advanceOutpos 3 (s.putDestByte (outAddr s + 2) (setLow6 b (xlateIn s.tables c)))) := by
  simp only [execEncP3, withSymbol, withSrcText_eq_next, withDestByte_eq_next, andThen_eq_next, writeDestByte_eq_next]
  constructor
  · rintro ⟨c, hc, b, hb, u, ⟨ho, rfl⟩, h⟩
    exact ⟨c, b, hc, hb, (Host.Outcome.next.inj h).symm⟩
  · rintro ⟨c, b, hc, hb, rfl⟩
    exact ⟨c, hc, b, hb, _, ⟨(Memory.read_eq_some.mp hb).1, rfl⟩, rfl⟩

/-- DEC.P0 goes on exactly where its elements exist, and then does what rule R100 says. -/
theorem execDecP0_eq_next :
    execDecP0 s = .next t ↔ ∃ b, s.src.bytes.read (s.run.off + s.idx) = some b ∧ outAddr s < s.dest.text.size ∧
      t = advanceIdx (advanceOutpos 1 (s.putDestText (outAddr s) (xlateOut s.tables (byteTop6 b)))) := by
  simp only [execDecP0, withSrcByte_eq_next, andThen_eq_next, emitSymbol_eq_next]
  constructor
  · rintro ⟨b, hb, u, ⟨ho, rfl⟩, h⟩
    exact ⟨b, hb, ho, (Host.Outcome.next.inj h).symm⟩
  · rintro ⟨b, hb, ho, rfl⟩
    exact ⟨b, hb, _, ⟨ho, rfl⟩, rfl⟩

/-- DEC.P1 goes on exactly where its elements exist, and then does what rule R101 says. -/
theorem execDecP1_eq_next :
    execDecP1 s = .next t ↔ ∃ b k p, s.src.bytes.read (s.run.off + s.idx) = some b ∧ s.run.off + s.idx = k + 1 ∧
      s.src.bytes.read k = some p ∧ outAddr s < s.dest.text.size ∧
      t = advanceIdx (advanceOutpos 1
        (s.putDestText (outAddr s) (xlateOut s.tables (sym24 (byteLow2 p) (byteTop4 b))))) := by
  simp only [execDecP1, withSrcByte_eq_next, withPrevByte_eq_next, andThen_eq_next, emitSymbol_eq_next]
  constructor
  · rintro ⟨b, hb, k, p, hk, hp, u, ⟨ho, rfl⟩, h⟩
    exact ⟨b, k, p, hb, hk, hp, ho, (Host.Outcome.next.inj h).symm⟩
  · rintro ⟨b, k, p, hb, hk, hp, ho, rfl⟩
    exact ⟨b, hb, k, p, hk, hp, _, ⟨ho, rfl⟩, rfl⟩

/-- DEC.P2 goes on exactly where its elements exist, and then does what rule R102 says. -/
theorem execDecP2_eq_next :
    execDecP2 s = .next t ↔ ∃ b k p, s.src.bytes.read (s.run.off + s.idx) = some b ∧ s.run.off + s.idx = k + 1 ∧
      s.src.bytes.read k = some p ∧ outAddr s + 1 < s.dest.text.size ∧
      t = advanceIdx (advanceOutpos 1
        ((advanceOutpos 1 (s.putDestText (outAddr s) (xlateOut s.tables (sym42 (byteLow4 p) (byteTop2 b))))).putDestText
          (outAddr s + 1) (xlateOut s.tables (byteLow6 b)))) := by
  simp only [execDecP2, withSrcByte_eq_next, withPrevByte_eq_next, andThen_eq_next, emitSymbol_eq_next]
  constructor
  · rintro ⟨b, hb, k, p, hk, hp, u, ⟨ho, rfl⟩, v, ⟨ho', rfl⟩, h⟩
    refine ⟨b, k, p, hb, hk, hp, ?_, ?_⟩
    · simpa [outAddr, State.putDestText, Nat.add_assoc] using ho'
    · rw [← Host.Outcome.next.inj h]
      simp [outAddr, State.putDestText, Nat.add_assoc]
  · rintro ⟨b, k, p, hb, hk, hp, ho, rfl⟩
    refine ⟨b, hb, k, p, hk, hp, _, ⟨by omega, rfl⟩, _, ⟨?_, rfl⟩, ?_⟩
    · simpa [outAddr, State.putDestText, Nat.add_assoc] using ho
    · simp [outAddr, State.putDestText, Nat.add_assoc]

end Inversion

end Sys2Proof.Machine
end

