-- ==== Sys2Proof/Laws/PerInstr.lean ====
section
/-! SUPPORT. Statements for all instructions, made per instruction: the shape of every encoding (`30_encoding.md` rules R50,
R55, R58). -/

namespace Sys2Proof.Laws.EncodingShape

/-- Is the instruction one of the eight operations? -/
def isOperation : Instr → Bool
  | .encode _ => true
  | .decode _ => true
  | .getByteCount _ => true
  | .getCharCount _ => true
  | .getMaxByteCount _ => true
  | .getMaxCharCount _ => true
  | .encodeInto _ => true
  | .decodeInto _ => true
  | .encP0 => false
  | .encP1 => false
  | .encP2 => false
  | .encP3 => false
  | .decP0 => false
  | .decP1 => false
  | .decP2 => false

/-- An operation's word is a command word with its reserved bits zero (R50); a step's is a selector that occurs (R55). -/
def Statement (i : Instr) : Prop :=
  match Sys2Proof.encode i with
  | .cmd8 w => isOperation i = true ∧ reservedField w = 0
  | .step3 sel => isOperation i = false ∧ sel ≠ 7

theorem encode (whole : Bool) : Statement (.encode whole) := by cases whole <;> exact ⟨rfl, by decide⟩
theorem decode (whole : Bool) : Statement (.decode whole) := by cases whole <;> exact ⟨rfl, by decide⟩
theorem getByteCount (whole : Bool) : Statement (.getByteCount whole) := by cases whole <;> exact ⟨rfl, by decide⟩
theorem getCharCount (whole : Bool) : Statement (.getCharCount whole) := by cases whole <;> exact ⟨rfl, by decide⟩
theorem getMaxByteCount (whole : Bool) : Statement (.getMaxByteCount whole) := by cases whole <;> exact ⟨rfl, by decide⟩
theorem getMaxCharCount (whole : Bool) : Statement (.getMaxCharCount whole) := by cases whole <;> exact ⟨rfl, by decide⟩
theorem encodeInto (whole : Bool) : Statement (.encodeInto whole) := by cases whole <;> exact ⟨rfl, by decide⟩
theorem decodeInto (whole : Bool) : Statement (.decodeInto whole) := by cases whole <;> exact ⟨rfl, by decide⟩
theorem encP0 : Statement .encP0 := ⟨rfl, by decide⟩
theorem encP1 : Statement .encP1 := ⟨rfl, by decide⟩
theorem encP2 : Statement .encP2 := ⟨rfl, by decide⟩
theorem encP3 : Statement .encP3 := ⟨rfl, by decide⟩
theorem decP0 : Statement .decP0 := ⟨rfl, by decide⟩
theorem decP1 : Statement .decP1 := ⟨rfl, by decide⟩
theorem decP2 : Statement .decP2 := ⟨rfl, by decide⟩

end Sys2Proof.Laws.EncodingShape
end

