-- ==== Sys2Proof/Laws/Translate.lean ====
section
/-! SUPPORT. Laws of the translation stage: what the constraints on the tables say, one by one; what a lookup finds was
listed; every symbol is one of the slots; and the default listing. -/

namespace Sys2Proof.Machine

/-- What the listing answers for a code point is listed with it. -/
theorem firstListed_mem {c : CodePoint} {s : Sym6} :
    ∀ {l : List (CodePoint × Sym6)}, firstListed c l = some s → (c, s) ∈ l
  | (d, x) :: rest, h => by
    unfold firstListed at h
    split at h
    · next hd =>
      obtain rfl := Option.some.inj h
      simp [hd]
    · exact List.mem_cons_of_mem _ (firstListed_mem h)

theorem encLookup_mem {t : Tables} {c : CodePoint} {s : Sym6} (h : encLookup t c = some s) : (c, s) ∈ t.encIndex := by
  unfold encLookup TableData.lookup at h
  split at h
  · exact firstListed_mem h
  · cases h

/-- The four constraints of a table's type. -/
theorem Tables.constraints (t : Tables) :
    t.spaceLegal = true ∧ t.membersLegal = true ∧ t.inverseLegal = true ∧ t.countLegal = true := by
  simpa [TableData.isLegal, and_assoc] using t.legal

/-- Constraint (1) of rule R72, and the example of rule R70. -/
theorem Tables.space (t : Tables) : xlateOut t 0 = 0x20 ∧ slotAssigned t 0 = true ∧ encLookup t 0x20 = some 0 := by
  have h := (Tables.constraints t).1
  simp only [TableData.spaceLegal, Bool.and_eq_true, decide_eq_true_eq, and_assoc] at h
  exact h

/-- Constraint (2) of rule R72. -/
theorem Tables.member_slot (t : Tables) {c : CodePoint} (hc : c ∈ members) :
    ∃ s, slotAssigned t s = true ∧ xlateOut t s = c := by
  have h := (Tables.constraints t).2.1
  simp only [TableData.membersLegal, List.all_eq_true, List.any_eq_true, Bool.and_eq_true, decide_eq_true_eq] at h
  obtain ⟨s, -, hs⟩ := h c hc
  exact ⟨s, hs⟩

/-- Constraint (3) of rule R72, for every code point. -/
theorem Tables.decodes_back (t : Tables) {c : CodePoint} {s : Sym6} (h : encLookup t c = some s) :
    xlateOut t s = c := by
  have hl := (Tables.constraints t).2.2.1
  simp only [TableData.inverseLegal, List.all_eq_true, decide_eq_true_eq] at hl
  exact hl (c, s) (encLookup_mem h) h

/-- 24 slots are unassigned (R20). -/
theorem Tables.unassigned_count (t : Tables) : (slots.filter fun s => !slotAssigned t s).length = 24 := by
  have h := (Tables.constraints t).2.2.2
  simpa [TableData.countLegal, slotAssigned] using h

theorem mem_slots (s : Sym6) : s ∈ slots := by
  simp only [slots, List.mem_map, List.mem_range]
  exact ⟨s.toNat, s.isLt, by simp⟩

/-- A pair of the default listing is an assigned slot with the code point it holds (R21). -/
theorem mem_defaultEncIndex {t : TableData} {p : CodePoint × Sym6} :
    p ∈ defaultEncIndex t ↔ t.assignedAt p.2 = true ∧ t.codeAt p.2 = p.1 := by
  obtain ⟨c, s⟩ := p
  simp only [defaultEncIndex, List.mem_filterMap]
  constructor
  · rintro ⟨x, -, hx⟩
    split at hx
    · next ha =>
      obtain ⟨rfl, rfl⟩ := Prod.mk.inj (Option.some.inj hx)
      exact ⟨ha, rfl⟩
    · cases hx
  · rintro ⟨ha, hc⟩
    exact ⟨s, mem_slots s, by simp_all⟩

end Sys2Proof.Machine
end

