-- ==== Sys2Proof/Tests/Slice0.lean ====
section
/-! SUPPORT. Tests of one step each on small states, with expected results from `95_test_vectors.md` and the rules' own
examples, and for each obligation with hypotheses a theorem that a concrete state meets them. -/

namespace Sys2Proof.Tests

open Sys2Proof Sys2Proof.Machine

/-! ### Well-formedness: an ill-formed term for each check (R51, R57) -/

theorem test_wf_refuses_max_byte_whole : (Instr.getMaxByteCount true).WellFormed = false := by decide
theorem test_wf_refuses_max_char_whole : (Instr.getMaxCharCount true).WellFormed = false := by decide
theorem test_wf_accepts_max_byte : (Instr.getMaxByteCount false).WellFormed = true := by decide
theorem test_wf_accepts_max_char : (Instr.getMaxCharCount false).WellFormed = true := by decide

/-! ### Decoding: a word written out from rule R51 or R55 for every constructor, and every kind of rejection (R57) -/

theorem test_decode_encode_op : decode (.cmd8 0b00000000#8) = .ok (.encode false) := by decide
theorem test_decode_decode_op : decode (.cmd8 0b00001001#8) = .ok (.decode true) := by decide
theorem test_decode_getByteCount : decode (.cmd8 0b00000010#8) = .ok (.getByteCount false) := by decide
theorem test_decode_getCharCount : decode (.cmd8 0b00001011#8) = .ok (.getCharCount true) := by decide
theorem test_decode_getMaxByteCount : decode (.cmd8 0b00000100#8) = .ok (.getMaxByteCount false) := by decide
theorem test_decode_getMaxCharCount : decode (.cmd8 0b00000101#8) = .ok (.getMaxCharCount false) := by decide
theorem test_decode_encodeInto : decode (.cmd8 0b00001110#8) = .ok (.encodeInto true) := by decide
theorem test_decode_decodeInto : decode (.cmd8 0b00000111#8) = .ok (.decodeInto false) := by decide
theorem test_decode_encP0 : decode (.step3 0b000#3) = .ok .encP0 := by decide
theorem test_decode_encP1 : decode (.step3 0b001#3) = .ok .encP1 := by decide
theorem test_decode_encP2 : decode (.step3 0b010#3) = .ok .encP2 := by decide
theorem test_decode_encP3 : decode (.step3 0b011#3) = .ok .encP3 := by decide
theorem test_decode_decP0 : decode (.step3 0b100#3) = .ok .decP0 := by decide
theorem test_decode_decP1 : decode (.step3 0b101#3) = .ok .decP1 := by decide
theorem test_decode_decP2 : decode (.step3 0b110#3) = .ok .decP2 := by decide
theorem test_decode_reserved_whole : decode (.cmd8 0x0C#8) = .error .wholeNotAllowed := by decide
theorem test_decode_reserved_whole_char : decode (.cmd8 0x0D#8) = .error .wholeNotAllowed := by decide
theorem test_decode_reserved_bits : decode (.cmd8 0x10#8) = .error .reservedBits := by decide
theorem test_decode_reserved_top : decode (.cmd8 0xFF#8) = .error .reservedBits := by decide
theorem test_decode_no_selector : decode (.step3 0b111#3) = .error .noSuchSelector := by decide
theorem test_table_word_cmd : decodeTableWord 8 0x0E = some (.encodeInto true) := by decide
theorem test_table_word_step : decodeTableWord 3 5 = some .decP1 := by decide
theorem test_table_word_reserved : decodeTableWord 8 0x1C = none := by decide

/-! ### States for the tests: the illustrative table of rule R74 (PRESUMED, general knowledge, not normative) -/

/-- The code point of a slot in the illustrative table (R74). -/
def illustrativeSlot (n : Nat) : CodePoint :=
  if n = 0 then 0x20
  else if n ≤ 26 then BitVec.ofNat 21 (0x40 + n)
  else if n = 27 then 0x24
  else if n = 28 then 0x2E
  else if n = 29 then 0x25
  else if n ≤ 39 then BitVec.ofNat 21 (0x12 + n)
  else 0

/-- The illustrative table with an empty listing. -/
def illustrativeBase : TableData :=
  ⟨Vector.ofFn fun i => illustrativeSlot i.val, Vector.ofFn fun i => decide (i.val < 40), [], 29⟩

/-- The illustrative table with its first-occurrence inverse and `FALLBACK_INDEX = 29` (V-G). -/
def illustrativeData : TableData := { illustrativeBase with encIndex := defaultEncIndex illustrativeBase }

theorem test_illustrative_members : members = [0x20, 0x41, 0x42, 0x43, 0x44, 0x45, 0x46, 0x47, 0x48, 0x49, 0x4A, 0x4B,
    0x4C, 0x4D, 0x4E, 0x4F, 0x50, 0x51, 0x52, 0x53, 0x54, 0x55, 0x56, 0x57, 0x58, 0x59, 0x5A] ++
    [0x30, 0x31, 0x32, 0x33, 0x34, 0x35, 0x36, 0x37, 0x38, 0x39, 0x24, 0x2E, 0x25] := by decide

theorem illustrative_space : illustrativeData.spaceLegal = true := by decide
theorem illustrative_members_legal : illustrativeData.membersLegal = true := by decide
theorem illustrative_inverse : illustrativeData.inverseLegal = true := by decide
theorem illustrative_count : illustrativeData.countLegal = true := by decide

/-- The illustrative table meets rule R72, as rule R74 says. -/
theorem test_illustrative_legal : illustrativeData.isLegal = true := by
  simp only [TableData.isLegal, illustrative_space, illustrative_members_legal, illustrative_inverse,
    illustrative_count, Bool.and_self]

/-- The illustrative table. -/
def illustrative : Tables := ⟨illustrativeData, test_illustrative_legal⟩

/-- A table without a space in slot 0 is refused. -/
theorem test_table_without_space :
    { TableData.listed with symtab := Vector.ofFn fun i => members.getD (i.val + 1) 0 }.isLegal = false := by decide

/-- A table with a slot too many assigned is refused. -/
theorem test_table_count : { TableData.listed with assigned := Vector.ofFn fun _ => true }.countLegal = false := by decide

/-- An idle engine with the illustrative table. -/
def idle : State := { State.reset with tables := illustrative }

/-- With a text of symbols 1, 2, 3, ... as source, declared. -/
def withText (elems : List CodePoint) : State :=
  { idle with src := bufferOf (.text elems), srcLen := elems.length, bufctl := 1 }

/-- With bytes as source, declared. -/
def withBytes (elems : List Byte) : State :=
  { idle with src := bufferOf (.bytes elems), srcLen := elems.length, bufctl := 1 }

/-- `ABCDEFG`, symbols 1 to 7 (V-P1). -/
def abcdefg : List CodePoint := [0x41, 0x42, 0x43, 0x44, 0x45, 0x46, 0x47]

/-- The V-P3 set-up: `ABC`, a destination of five `AA`, both declared. -/
def intoState : State :=
  { withText [0x41, 0x42, 0x43] with
    dst := bufferOf (.bytes [0xAA, 0xAA, 0xAA, 0xAA, 0xAA]), dstLen := 5, dstOff := 1, bufctl := 3 }

/-- The V-P3 set-up of step 5: bytes `04 20 C0`, a destination of four `U+002A`. -/
def intoTextState : State :=
  { withBytes [0x04, 0x20, 0xC0] with dst := bufferOf (.text [0x2A, 0x2A, 0x2A, 0x2A]), dstLen := 4, bufctl := 3 }

/-- What a test looks at in an outcome. -/
def seen {α : Type} (f : State → α) : Outcome → Option α
  | .next s => some (f s)
  | .fault _ => none
  | .refused _ => none

/-- Which refusal an outcome is. -/
def refusal : Outcome → Option Refusal
  | .next _ => none
  | .fault _ => none
  | .refused r => some r

/-! ### The operations -/

/-- V-P1 step 3. -/
theorem test_encode_vp1 :
    seen (fun s => ((s.buffer (.held 0)).bytes.toList, s.result, s.status)) (exec (.encode true) (withText abcdefg)) =
      some ([0x04, 0x20, 0xC4, 0x14, 0x61, 0xC0], 6, 0) := by decide

/-- V-G9: both code points unmapped. -/
theorem test_encode_fallback :
    seen (fun s => ((s.buffer (.held 0)).bytes.toList, s.result)) (exec (.encode true) (withText [0x61, 0x3F])) =
      some ([0x75, 0xD0], 2) := by decide

/-- V-P1 step 6: the text comes back one space longer. -/
theorem test_decode_vp1 :
    seen (fun s => ((s.buffer (.held 0)).text.toList, s.result, s.status))
      (exec (.decode true) (withBytes [0x04, 0x20, 0xC4, 0x14, 0x61, 0xC0])) =
      some (abcdefg ++ [0x20], 8, 0) := by decide

/-- V-P2 step 3: the phase restarts at the offset; symbols 8, 12, 16, 20. -/
theorem test_decode_subrange :
    seen (fun s => ((s.buffer (.held 0)).text.toList, s.result))
      (exec (.decode false) { withBytes [0x04, 0x20, 0xC4, 0x14, 0x61, 0xC8] with srcOff := 1, srcCnt := 3 }) =
      some ([0x48, 0x4C, 0x50, 0x54], 4) := by decide

/-- V-D6: `04` with `SRC_CNT = 26`, no buffer declared present but a destination. -/
theorem test_max_byte_count :
    seen (fun s => (s.result, s.status)) (exec (.getMaxByteCount false) { idle with srcCnt := 26, bufctl := 2 }) =
      some (20, 0) := by decide

/-- V-P4 step 4. -/
theorem test_max_char_count :
    seen (fun s => s.result) (exec (.getMaxCharCount false) { idle with srcCnt := 11 }) = some 14 := by decide

/-- V-S2: ten characters need 8 bytes. -/
theorem test_get_byte_count :
    seen (fun s => (s.result, s.status))
      (exec (.getByteCount true) (withText [0x30, 0x31, 0x32, 0x33, 0x34, 0x35, 0x36, 0x37, 0x38, 0x39])) =
      some (8, 0) := by decide

/-- V-P1 step 5. -/
theorem test_get_char_count :
    seen (fun s => s.result) (exec (.getCharCount true) (withBytes [0x04, 0x20, 0xC4, 0x14, 0x61, 0xC0])) = some 8 := by
  decide

/-- V-P3 step 4: the padding bits are written over `AA`. -/
theorem test_encode_into :
    seen (fun s => (s.dst.bytes.toList, s.result, s.status)) (exec (.encodeInto true) intoState) =
      some ([0xAA, 0x04, 0x20, 0xC0, 0xAA], 3, 0) := by decide

/-- V-P3 step 3: need 3 > 5 - 3. -/
theorem test_encode_into_range :
    exec (.encodeInto true) { intoState with dstOff := 3 } = .next { intoState with dstOff := 3, status := 2 } := by
  rfl

/-- V-P3 step 5. -/
theorem test_decode_into :
    seen (fun s => (s.dst.text.toList, s.result)) (exec (.decodeInto true) intoTextState) =
      some ([0x41, 0x42, 0x43, 0x20], 4) := by decide

/-- V-D6: need 4 > 3. -/
theorem test_decode_into_range :
    seen (fun s => (s.status, s.dst.text.toList)) (exec (.decodeInto true) { intoTextState with dstLen := 3 }) =
      some (2, [0x2A, 0x2A, 0x2A, 0x2A]) := by decide

/-- V-D6: source absent wins over both range faults. -/
theorem test_absent_wins :
    seen (fun s => s.status) (exec (.encodeInto false) { intoState with bufctl := 0, srcCnt := 4, dstLen := 0, dstOff := 9 }) =
      some 1 := by decide

/-- V-D6: the source range is check 3, before the destination window. -/
theorem test_source_range :
    seen (fun s => s.status) (exec (.encodeInto false) { intoState with srcCnt := 4, dstOff := 9 }) = some 2 := by
  decide

/-- V-D6: `off = SRC_LEN`, `cnt = 0` passes. -/
theorem test_empty_tail_range :
    seen (fun s => (s.status, s.result)) (exec (.encode false) { withText [0x41, 0x42, 0x43, 0x44] with srcOff := 4 }) =
      some (0, 0) := by decide

/-! ### The steps, from the single-step table of V-D2 and the trace of V-D4 -/

/-- A busy encode at the given index with the given bytes in a fresh destination; the text is `A` to `G`. -/
def encoding (idx : Nat) (out : List Byte) : State :=
  { withText abcdefg with
    status := 4, run := ⟨.encode, false, 0, 7, 0, 6⟩, idx := idx, fresh := bufferOf (.bytes out) }

/-- A busy decode at the given index and cursor of the bytes of V-D4. -/
def decoding (idx outpos : Nat) : State :=
  { withBytes [0x04, 0x20, 0xC4, 0x14, 0x61, 0xC0] with
    status := 4, run := ⟨.decode, false, 0, 6, 0, 8⟩, idx := idx, outpos := outpos,
    fresh := bufferOf (.text [0, 0, 0, 0, 0, 0, 0, 0]) }

theorem test_encP0 :
    seen (fun s => (s.fresh.bytes.toList, s.idx, s.outpos)) (exec .encP0 (encoding 0 [0xFF, 0, 0, 0, 0, 0])) =
      some ([0x04, 0, 0, 0, 0, 0], 1, 0) := by decide

theorem test_encP1 :
    seen (fun s => (s.fresh.bytes.toList, s.idx, s.outpos)) (exec .encP1 (encoding 1 [0x07, 0xFF, 0, 0, 0, 0])) =
      some ([0x04, 0x20, 0, 0, 0, 0], 2, 0) := by decide

theorem test_encP2 :
    seen (fun s => (s.fresh.bytes.toList, s.idx, s.outpos)) (exec .encP2 (encoding 2 [0x04, 0x2F, 0xFF, 0, 0, 0])) =
      some ([0x04, 0x20, 0xC0, 0, 0, 0], 3, 0) := by decide

theorem test_encP3 :
    seen (fun s => (s.fresh.bytes.toList, s.idx, s.outpos)) (exec .encP3 (encoding 3 [0x04, 0x20, 0xFF, 0, 0, 0])) =
      some ([0x04, 0x20, 0xC4, 0, 0, 0], 4, 3) := by decide

theorem test_decP0 :
    seen (fun s => (s.fresh.text.toList.take 2, s.idx, s.outpos)) (exec .decP0 (decoding 0 0)) =
      some ([0x41, 0], 1, 1) := by decide

theorem test_decP1 :
    seen (fun s => (s.fresh.text.toList.take 3, s.idx, s.outpos)) (exec .decP1 (decoding 1 1)) =
      some ([0, 0x42, 0], 2, 2) := by decide

theorem test_decP2 :
    seen (fun s => (s.fresh.text.toList.take 5, s.idx, s.outpos)) (exec .decP2 (decoding 2 2)) =
      some ([0, 0, 0x43, 0x44, 0], 3, 4) := by decide

/-! ### Refusals and the agents' moves -/

theorem test_refuses_reserved_word :
    refusal (step (idle.withFetchWord 8 0x0C)) = some .reservedCommand := by decide

theorem test_refuses_reserved_bufctl :
    refusal (exec (.getByteCount true) { withText abcdefg with bufctl := 0x05 }) = some .reservedBufctl := by
  decide

/-- R19 of a Max query too. -/
theorem test_refuses_max_reserved_bufctl :
    refusal (exec (.getMaxByteCount false) { idle with srcCnt := 26, bufctl := 0x04 }) = some .reservedBufctl := by
  decide

theorem test_refuses_false_length :
    refusal (exec (.encode true) { withText abcdefg with srcLen := 8 }) = some .falseLength := by decide

theorem test_refuses_overlap :
    refusal (exec (.encodeInto true) { intoState with aliases := [(2, 3)] }) = some .overlappingBuffers := by
  decide

/-- A pair outside the window is no overlap. -/
theorem test_accepts_outside_pair :
    seen (fun s => s.status) (exec (.encodeInto true) { intoState with aliases := [(2, 0), (2, 4)] }) = some 0 := by
  decide

/-- The bytes of a text at reset: no buffer is present, so the first instruction run raises InvalidArgument (R141). -/
theorem test_first_step_encode : seen (fun s => s.status) (step (State.reset.withFetchWord 8 0x00)) = some 1 := by
  decide

theorem test_first_step_max : seen (fun s => (s.status, s.cmd)) (step (State.reset.withFetchWord 8 0x05)) = some (0, 5) := by
  decide

theorem test_first_step_selector : seen (fun s => s.idx) (step (State.reset.withFetchWord 3 6)) = some 3 := by
  decide

/-- `STATUS` reads 4 while the operation runs and 0 at its end, one step per element (R18, R172). -/
theorem test_stepwise :
    seen (fun s => (s.hostRead, s.status, s.idx))
      (repeatStep step 3 { withText [0x41] with host := [.startCmd 0x08, .readReg .status, .tick, .tick] }) =
      some (4, 4, 1) := by decide

/-- A launch by a host that has written its operands keeps the premise OperandsWritten (R12, R52). -/
theorem test_operands_written :
    seen (OperandsWritten (.getMaxByteCount false)) (step { idle with host := [.writeReg .srcCnt 26] }) = some true ∧
      OperandsWritten (.getMaxByteCount false) idle = false := by decide

/-! ### Every obligation's hypotheses are met by a concrete state -/

theorem wit_idle_engine : Idle idle ∧ idle.host = [] := by decide

theorem wit_decode_encode : (Instr.encodeInto true).WellFormed = true := by decide

theorem wit_encode_decode : decode (.cmd8 0x0F) = .ok (.decodeInto true) := by decide

theorem wit_command_step :
    Idle { idle with host := [.writeCmd 0x04] } ∧ decode (.cmd8 0x04) = .ok (.getMaxByteCount false) ∧
      decode (.cmd8 0x0D) = .error .wholeNotAllowed := by decide

theorem wit_engine_step_encode :
    busy (encoding 3 []) = true ∧ (encoding 3 []).idx < (encoding 3 []).run.cnt ∧ (encoding 3 []).host = [] ∧
      (encoding 3 []).run.dir = .encode ∧ (encoding 3 []).idx % 4 = 3 := by decide

theorem wit_engine_step_decode :
    busy (decoding 2 2) = true ∧ (decoding 2 2).idx < (decoding 2 2).run.cnt ∧ (decoding 2 2).run.dir = .decode ∧
      (decoding 2 2).idx % 3 = 2 := by decide

theorem wit_engine_ends : busy (encoding 7 []) = true ∧ (encoding 7 []).host = [] ∧
    (encoding 7 []).run.cnt ≤ (encoding 7 []).idx ∧ (encoding 7 []).run.into = false ∧
    ({ encoding 7 [] with run := ⟨.encode, true, 0, 7, 0, 6⟩ } : State).run.into = true := by decide

theorem wit_encP0 :
    (encoding 0 [0, 0, 0, 0, 0, 0]).dest.bytes.wf = true ∧ (encoding 0 []).src.text.read 0 = some 0x41 ∧
      0 < (encoding 0 [0, 0, 0, 0, 0, 0]).dest.bytes.size := by decide

theorem wit_encP1 :
    (encoding 1 [4, 0, 0, 0, 0, 0]).dest.bytes.wf = true ∧ (encoding 1 []).src.text.read 1 = some 0x42 ∧
      (encoding 1 [4, 0, 0, 0, 0, 0]).dest.bytes.read 0 = some 4 ∧
      0 + 1 < (encoding 1 [4, 0, 0, 0, 0, 0]).dest.bytes.size := by decide

theorem wit_encP2 :
    (encoding 2 [4, 0x20, 0]).dest.bytes.wf = true ∧ (encoding 2 []).src.text.read 2 = some 0x43 ∧
      (encoding 2 [4, 0x20, 0]).dest.bytes.read 1 = some 0x20 ∧ 0 + 2 < (encoding 2 [4, 0x20, 0]).dest.bytes.size := by
  decide

theorem wit_encP3 :
    (encoding 3 [4, 0x20, 0xC0]).dest.bytes.wf = true ∧ (encoding 3 []).src.text.read 3 = some 0x44 ∧
      (encoding 3 [4, 0x20, 0xC0]).dest.bytes.read 2 = some 0xC0 := by decide

theorem wit_decP0 :
    (decoding 0 0).dest.text.wf = true ∧ (decoding 0 0).src.bytes.read 0 = some 0x04 ∧
      0 < (decoding 0 0).dest.text.size := by decide

theorem wit_decP1 :
    (decoding 1 1).dest.text.wf = true ∧ 1 ≤ (decoding 1 1).idx ∧ (decoding 1 1).src.bytes.read 1 = some 0x20 ∧
      (decoding 1 1).src.bytes.read 0 = some 0x04 ∧ 1 < (decoding 1 1).dest.text.size := by decide

theorem wit_decP2 :
    (decoding 2 2).dest.text.wf = true ∧ 1 ≤ (decoding 2 2).idx ∧ (decoding 2 2).src.bytes.read 2 = some 0xC4 ∧
      (decoding 2 2).src.bytes.read 1 = some 0x20 ∧ 2 + 1 < (decoding 2 2).dest.text.size := by decide

/-- The premises of GETBYTECOUNT and ENCODE, whole form and a sub-range that ends at the end of the buffer. -/
theorem wit_text_launch :
    LaunchPremises ⟨.encode, false, true⟩ (withText abcdefg) ∧ srcPresent (withText abcdefg) = true ∧
      SourceFits ⟨.encode, false, true⟩ (withText abcdefg) ∧
      SourceFits ⟨.encode, false, false⟩ { withText abcdefg with srcOff := 5, srcCnt := 2 } := by decide

/-- The premises of GETCHARCOUNT and DECODE. -/
theorem wit_bytes_launch :
    LaunchPremises ⟨.decode, false, true⟩ (withBytes [0x04, 0x20]) ∧ srcPresent (withBytes [0x04, 0x20]) = true ∧
      SourceFits ⟨.decode, false, true⟩ (withBytes [0x04, 0x20]) := by decide

theorem wit_max_query :
    Idle idle ∧ BufctlLegal idle ∧ busy (encoding 0 []) = true ∧ Idle { idle with bufctl := 0x04 } ∧
      ¬ BufctlLegal { idle with bufctl := 0x04 } := by decide

theorem wit_queries_agree :
    seen (fun s => s.result) (exec (.encode true) (withText abcdefg)) =
      seen (fun s => s.result) (exec (.getByteCount true) (withText abcdefg)) := by decide

theorem wit_source_absent :
    sourceForm (.encode true) = some ⟨.encode, false, true⟩ ∧
      LaunchPremises ⟨.encode, false, true⟩ { withText abcdefg with bufctl := 0 } ∧
      srcPresent { withText abcdefg with bufctl := 0 } = false := by decide

theorem wit_destination_absent :
    sourceForm (.encodeInto true) = some ⟨.encode, true, true⟩ ∧
      LaunchPremises ⟨.encode, true, true⟩ { intoState with bufctl := 1 } ∧
      dstPresent { intoState with bufctl := 1 } = false := by decide

theorem wit_source_out_of_range :
    LaunchPremises ⟨.encode, false, false⟩ { withText abcdefg with srcOff := 8 } ∧
      BuffersPresent ⟨.encode, false, false⟩ { withText abcdefg with srcOff := 8 } ∧
      ¬ SourceFits ⟨.encode, false, false⟩ { withText abcdefg with srcOff := 8 } := by decide

theorem wit_destination_out_of_range :
    LaunchPremises ⟨.encode, true, true⟩ { intoState with dstOff := 3 } ∧
      BuffersPresent ⟨.encode, true, true⟩ { intoState with dstOff := 3 } ∧
      ¬ DestFits ⟨.encode, true, true⟩ { intoState with dstOff := 3 } := by decide

theorem wit_false_premises :
    busy (encoding 0 []) = true ∧ ¬ BufctlLegal { idle with bufctl := 4 } ∧
      (BufctlLegal { withText abcdefg with srcLen := 8 } ∧
        ¬ LengthsTrue ⟨.encode, false, true⟩ { withText abcdefg with srcLen := 8 }) ∧
      (LengthsTrue ⟨.encode, true, true⟩ { intoState with aliases := [(0, 1)] } ∧
        ¬ BuffersDisjoint ⟨.encode, true, true⟩ { intoState with aliases := [(0, 1)] }) := by decide

theorem wit_encode_into :
    intoState.dst.bytes.wf = true ∧ LaunchPremises ⟨.encode, true, true⟩ intoState ∧
      BuffersPresent ⟨.encode, true, true⟩ intoState ∧ SourceFits ⟨.encode, true, true⟩ intoState ∧
      DestFits ⟨.encode, true, true⟩ intoState := by decide

theorem wit_decode_into :
    intoTextState.dst.text.wf = true ∧ LaunchPremises ⟨.decode, true, true⟩ intoTextState ∧
      BuffersPresent ⟨.decode, true, true⟩ intoTextState ∧ SourceFits ⟨.decode, true, true⟩ intoTextState ∧
      DestFits ⟨.decode, true, true⟩ intoTextState := by decide

theorem wit_short_form : sourceForm (.decodeInto true) = some ⟨.decode, true, true⟩ := by decide

theorem wit_subrange :
    sourceForm (.encodeInto false) = some ⟨.encode, true, false⟩ ∧
      LaunchPremises ⟨.encode, true, false⟩ { intoState with srcOff := 1, srcCnt := 2 } ∧
      BuffersPresent ⟨.encode, true, false⟩ { intoState with srcOff := 1, srcCnt := 2 } ∧
      SourceFits ⟨.encode, true, false⟩ { intoState with srcOff := 1, srcCnt := 2 } ∧
      DestFits ⟨.encode, true, false⟩ { intoState with srcOff := 1, srcCnt := 2 } := by decide

theorem wit_translation :
    encLookup illustrative 0x41 = some 1 ∧ encLookup illustrative 0x61 = none ∧ isScalar 0xD800 = false := by decide

theorem wit_default_index : illustrative.encIndex = defaultEncIndex illustrative.toTableData := rfl

/-- Contents in which slots 3 and 5 are assigned and hold one code point. -/
def duplicateBase : TableData :=
  ⟨Vector.ofFn fun _ => 0x41, Vector.ofFn fun i => decide (i.val = 3 ∨ i.val = 5), [], 0⟩

def duplicate : TableData := { duplicateBase with encIndex := defaultEncIndex duplicateBase }

/-- "first occurrence in table order wins" (R70 (d)). -/
theorem wit_default_index_duplicate :
    duplicate.encIndex = defaultEncIndex duplicate ∧ duplicate.assignedAt 5 = true ∧ duplicate.codeAt 5 = 0x41 ∧
      duplicate.lookup 0x41 = some 3 := ⟨rfl, by decide, by decide, by decide⟩

theorem illustrative_maps_abc : ∀ c ∈ ([0x41, 0x42, 0x43] : List CodePoint), encLookup illustrative c ≠ none := by
  simp only [List.mem_cons, List.not_mem_nil, or_false]
  rintro c (rfl | rfl | rfl) <;> decide

theorem sourceText_abc : sourceText true (withText [0x41, 0x42, 0x43]) = [0x41, 0x42, 0x43] := by decide

theorem wit_text_round_trip :
    LaunchPremises ⟨.encode, false, true⟩ (withText [0x41, 0x42, 0x43]) ∧
      srcPresent (withText [0x41, 0x42, 0x43]) = true ∧
      ∀ c ∈ sourceText true (withText [0x41, 0x42, 0x43]), encLookup illustrative c ≠ none :=
  ⟨by decide, by decide, sourceText_abc ▸ illustrative_maps_abc⟩

theorem wit_fallback :
    LaunchPremises ⟨.encode, false, true⟩ (withText [0x61]) ∧ srcPresent (withText [0x61]) = true ∧
      sourceText true (withText [0x61]) = [0x61] ∧ encLookup illustrative 0x61 = none := by decide

theorem wit_exec_next : seen (fun s => s.idx) (exec .encP0 (encoding 0 [0, 0, 0, 0, 0, 0])) = some 1 := by decide

/-- A busy state that meets the invariant. -/
theorem wit_invariant_busy :
    Inv (encoding 3 [0x04, 0x20, 0xC0, 0, 0, 0]) ∧ busy (encoding 3 [0x04, 0x20, 0xC0, 0, 0, 0]) = true ∧
      (encoding 3 [0x04, 0x20, 0xC0, 0, 0, 0]).host = [] ∧
      seen (fun s => s.idx) (step (encoding 3 [0x04, 0x20, 0xC0, 0, 0, 0])) = some 4 := by decide

theorem wit_stepwise :
    (withText abcdefg).host = [] ∧ decode (.cmd8 0x08) = .ok (.encode true) ∧
      conversionForm (.encode true) = some ⟨.encode, false, true⟩ ∧
      LaunchPremises ⟨.encode, false, true⟩ (withText abcdefg) ∧
      BuffersPresent ⟨.encode, false, true⟩ (withText abcdefg) ∧
      SourceFits ⟨.encode, false, true⟩ (withText abcdefg) ∧
      DestFits ⟨.encode, false, true⟩ (withText abcdefg) := by decide

/-- A reserved word, a query, a refused launch and one that raises an error. -/
theorem wit_stepwise_at_once :
    Idle idle ∧ decode (.cmd8 0x0D) = .error .wholeNotAllowed ∧
      (decode (.cmd8 0x04) = .ok (.getMaxByteCount false) ∧ conversionForm (.getMaxByteCount false) = none) ∧
      ¬ LaunchPremises ⟨.encode, false, true⟩ { withText abcdefg with srcLen := 8 } ∧
      ¬ BuffersPresent ⟨.encode, false, true⟩ { withText abcdefg with bufctl := 0 } := by decide

theorem wit_host_write :
    Idle { idle with host := [.writeReg .dstOff 7] } ∧ Idle { idle with host := [.writeBufctl 0xFF] } := by decide

theorem wit_host_busy :
    busy { encoding 0 [] with host := [.readReg .status] } = true ∧
      ({ encoding 0 [] with held := [bufferOf (.bytes [7])] } : State).buffer (.held 0) = bufferOf (.bytes [7]) ∧
      (bufferOf (.bytes [7])).bytes.read 0 = some 7 ∧ (bufferOf (.text [7])).text.read 0 = some 7 ∧
      HostMove.writeBufctl 1 ≠ .readReg .status ∧ HostMove.writeBufctl 1 ≠ .tick ∧ HostMove.writeBufctl 1 ≠ .reset := by
  decide

theorem wit_host_reads_result :
    Idle { idle with host := [.readReg .result] } ∧ statusErr idle.status = 0 ∧
      Idle { idle with status := 2, host := [.readReg .status] } ∧ Reg.status ≠ .result ∧
      Idle { idle with status := 2, host := [.readReg .result] } ∧ statusErr 2 ≠ 0 := by decide

/-- The destination the host supplied is readable after a failed ENCODE_INTO and after a reset (R25, R87, R147). -/
theorem test_dst_readable :
    seen (fun s => (s.hostRead, s.status)) (repeatStep step 2
      { intoState with dstOff := 3, host := [.writeCmd 0x0E, .readByte .dst 1] }) = some (0xAA, 2) ∧
    seen (fun s => s.hostRead) (repeatStep step 2 { intoState with host := [.reset, .readByte .dst 4] }) = some 0xAA := by
  decide

/-- The output of an earlier ENCODE stays readable after a later one (R174). -/
theorem test_delivered_stays :
    seen (fun s => s.held.map fun b => b.bytes.toList) (repeatStep step 2
      { withText [0x41, 0x42] with host := [.writeCmd 0x08, .writeCmd 0x00], srcCnt := 1 }) =
      some [[0x04], [0x04, 0x20]] := by decide

theorem wit_host_reads_buffers :
    Idle { intoState with host := [.readByte .dst 4] } ∧ intoState.dst.bytes.read 4 = some 0xAA ∧
      intoState.dst.bytes.read 5 = none ∧ (withText abcdefg).src.text.read 6 = some 0x47 ∧
      (withText abcdefg).src.text.read 7 = none := by decide

theorem wit_host_changes_buffers :
    Idle { intoState with host := [.fill (.held 1) (.bytes [1])], held := [bufferOf (.bytes [5]), Buffer.absent] } ∧
      (∀ n, BufferName.held 1 = .held n → n < 2) ∧ (∀ n, BufferName.src ≠ .held n) ∧
      Idle { intoState with host := [.placeBuffers [(0, 0)]] } :=
  ⟨by decide, by rintro n ⟨⟩; decide, by intro n; simp, by decide⟩

theorem wit_reset_idle : Idle { idle with host := [.reset] } := by decide

theorem wit_reset_busy :
    busy { encoding 0 [] with host := [.reset] } = true ∧ (encoding 0 []).run.into = false ∧
      ({ encoding 0 [] with run := ⟨.encode, true, 0, 7, 0, 6⟩ } : State).run.into = true := by decide

end Sys2Proof.Tests
end

section
namespace Sys2Proof.Machine

/-- A mapped code point translates to the slot that `ENC_INDEX` gives (R70). -/
theorem xlateIn_of_encLookup {t : Tables} {c : CodePoint} {s : Sym6} (h : encLookup t c = some s) :
    xlateIn t c = s := by
  simp only [xlateIn, h]

theorem length_members : members.length = 40 := by decide

/-- Settles O57: the parts are the constraints that a table carries by its type (R20, R72), and R70's translation of the
space follows from its entry in `ENC_INDEX`. -/
theorem tablesMeetConstraints : Obligations.TablesMeetConstraints := by
  intro t
  obtain ⟨hcode, hassigned, hmapped⟩ := Tables.space t
  exact ⟨hcode, xlateIn_of_encLookup hmapped, hassigned, length_members,
    fun _ hc => Tables.member_slot t hc, Tables.unassigned_count t, fun _ _ h => Tables.decodes_back t h⟩

end Sys2Proof.Machine
end

section
/-! What the steps of a conversion change and when they go on, and what an instruction that goes on has done: the facts
from which the statements about the whole machine follow. -/

namespace Sys2Proof.Machine

/-! ### What a write of an element keeps of a buffer -/

/-- `b` has as many elements as `a` on each side, and is canonical where `a` is. -/
structure SameShape (a b : Buffer) : Prop where
  text : b.text.size = a.text.size
  bytes : b.bytes.size = a.bytes.size
  wf : a.wf = true → b.wf = true

theorem SameShape.refl (a : Buffer) : SameShape a a := ⟨rfl, rfl, id⟩

theorem SameShape.trans {a b c : Buffer} (hab : SameShape a b) (hbc : SameShape b c) : SameShape a c :=
  ⟨hbc.text.trans hab.text, hbc.bytes.trans hab.bytes, hbc.wf ∘ hab.wf⟩

theorem SameShape.destSize {a b : Buffer} (h : SameShape a b) (dir : Dir) : destSize dir b = destSize dir a := by
  cases dir
  · exact h.bytes
  · exact h.text

theorem Buffer.wf_iff {b : Buffer} : b.wf = true ↔ b.text.wf = true ∧ b.bytes.wf = true := by
  simp [Buffer.wf]

theorem sameShape_putByte (b : Buffer) (k : Nat) (v : Byte) : SameShape b { b with bytes := b.bytes.put k v } := by
  refine ⟨rfl, Memory.put_size .., fun h => ?_⟩
  obtain ⟨ht, hb⟩ := Buffer.wf_iff.mp h
  exact Buffer.wf_iff.mpr ⟨ht, Memory.put_wf hb k v⟩

theorem sameShape_putText (b : Buffer) (k : Nat) (c : CodePoint) : SameShape b { b with text := b.text.put k c } := by
  refine ⟨Memory.put_size .., rfl, fun h => ?_⟩
  obtain ⟨ht, hb⟩ := Buffer.wf_iff.mp h
  exact Buffer.wf_iff.mpr ⟨Memory.put_wf ht k c, hb⟩

/-! ### What the steps of a conversion may change -/

/-- `s` with another destination, `IDX` and `OUTPOS`: all that a step can change. -/
def State.progress (s : State) (d : Buffer) (idx outpos : Nat) : State :=
  { s with
    dst := if s.run.into then d else s.dst
    fresh := if s.run.into then s.fresh else d
    idx := idx
    outpos := outpos }

theorem setDest_eq_progress (s : State) (d : Buffer) : s.setDest d = s.progress d s.idx s.outpos := by
  unfold State.setDest State.progress
  split <;> rfl

@[simp] theorem progress_dest (s : State) (d : Buffer) (i o : Nat) : (s.progress d i o).dest = d := by
  unfold State.dest State.progress
  cases s.run.into <;> rfl

theorem progress_progress (s : State) (d e : Buffer) (i j o p : Nat) :
    (s.progress d i o).progress e j p = s.progress e j p := by
  unfold State.progress
  cases s.run.into <;> rfl

/-- From `s` to `t` only elements of the destination, `IDX` and `OUTPOS` have changed. -/
def StepsFrame (s t : State) : Prop := ∃ d i o, t = s.progress d i o ∧ SameShape s.dest d

@[simp] theorem putDestByte_idx (s : State) (k : Nat) (v : Byte) : (s.putDestByte k v).idx = s.idx := by
  simp [State.putDestByte]

@[simp] theorem putDestByte_outpos (s : State) (k : Nat) (v : Byte) : (s.putDestByte k v).outpos = s.outpos := by
  simp [State.putDestByte]

@[simp] theorem putDestText_idx (s : State) (k : Nat) (c : CodePoint) : (s.putDestText k c).idx = s.idx := by
  simp [State.putDestText]

@[simp] theorem putDestText_outpos (s : State) (k : Nat) (c : CodePoint) : (s.putDestText k c).outpos = s.outpos := by
  simp [State.putDestText]

theorem StepsFrame.refl (s : State) : StepsFrame s s :=
  ⟨_, _, _, (setDest_eq_progress s s.dest ▸ setDest_self s).symm, .refl _⟩

theorem StepsFrame.trans {s t u : State} (hst : StepsFrame s t) (htu : StepsFrame t u) : StepsFrame s u := by
  obtain ⟨d, i, o, rfl, hd⟩ := hst
  obtain ⟨e, j, p, rfl, he⟩ := htu
  rw [progress_dest] at he
  exact ⟨e, j, p, progress_progress .., hd.trans he⟩

theorem stepsFrame_putDestByte (s : State) (k : Nat) (v : Byte) : StepsFrame s (s.putDestByte k v) :=
  ⟨_, _, _, setDest_eq_progress .., sameShape_putByte ..⟩

theorem stepsFrame_putDestText (s : State) (k : Nat) (c : CodePoint) : StepsFrame s (s.putDestText k c) :=
  ⟨_, _, _, setDest_eq_progress .., sameShape_putText ..⟩

section Frame

variable {s t : State}

/-- The two cursors are among what a step may change. -/
theorem StepsFrame.advanceIdx (h : StepsFrame s t) : StepsFrame s (Machine.advanceIdx t) := by
  obtain ⟨d, i, o, rfl, hd⟩ := h
  exact ⟨d, i + 1, o, rfl, hd⟩

theorem StepsFrame.advanceOutpos (h : StepsFrame s t) (n : Nat) : StepsFrame s (Machine.advanceOutpos n t) := by
  obtain ⟨d, i, o, rfl, hd⟩ := h
  exact ⟨d, i, o + n, rfl, hd⟩

theorem StepsFrame.run (h : StepsFrame s t) : t.run = s.run := by obtain ⟨d, i, o, rfl, hd⟩ := h; rfl
theorem StepsFrame.status (h : StepsFrame s t) : t.status = s.status := by obtain ⟨d, i, o, rfl, hd⟩ := h; rfl
theorem StepsFrame.src (h : StepsFrame s t) : t.src = s.src := by obtain ⟨d, i, o, rfl, hd⟩ := h; rfl
theorem StepsFrame.host (h : StepsFrame s t) : t.host = s.host := by obtain ⟨d, i, o, rfl, hd⟩ := h; rfl

theorem StepsFrame.destSize (h : StepsFrame s t) (dir : Dir) : destSize dir t.dest = destSize dir s.dest := by
  obtain ⟨d, i, o, rfl, hd⟩ := h
  rw [progress_dest, hd.destSize]

/-- Canonical buffers stay canonical. -/
theorem StepsFrame.memoriesWf (h : StepsFrame s t) (hs : MemoriesWf s) : MemoriesWf t := by
  obtain ⟨d, i, o, rfl, hd⟩ := h
  obtain ⟨hsrc, hdst, hfresh, hheld⟩ := hs
  have hdest : d.wf = true := hd.wf (by unfold State.dest; split <;> assumption)
  refine ⟨hsrc, ?_, ?_, hheld⟩ <;>
    · simp only [State.progress]
      split <;> assumption

end Frame

/-! ### What each step does -/

/-- One step of a conversion: one source element is done, the output cursor has moved by `n`, and beside them only
elements of the destination have changed. -/
structure StepEffect (n : Nat) (s t : State) : Prop where
  frame : StepsFrame s t
  idx : t.idx = s.idx + 1
  outpos : t.outpos = s.outpos + n

section Effect

variable {s t : State}

theorem execEncP0_effect (h : execEncP0 s = .next t) : StepEffect 0 s t := by
  obtain ⟨c, -, -, rfl⟩ := execEncP0_eq_next.mp h
  exact ⟨(stepsFrame_putDestByte ..).advanceIdx, by simp, by simp⟩

theorem execEncP1_effect (h : execEncP1 s = .next t) : StepEffect 0 s t := by
  obtain ⟨c, b, -, -, -, rfl⟩ := execEncP1_eq_next.mp h
  exact ⟨((stepsFrame_putDestByte ..).trans (stepsFrame_putDestByte ..)).advanceIdx, by simp, by simp⟩

theorem execEncP2_effect (h : execEncP2 s = .next t) : StepEffect 0 s t := by
  obtain ⟨c, b, -, -, -, rfl⟩ := execEncP2_eq_next.mp h
  exact ⟨((stepsFrame_putDestByte ..).trans (stepsFrame_putDestByte ..)).advanceIdx, by simp, by simp⟩

theorem execEncP3_effect (h : execEncP3 s = .next t) : StepEffect 3 s t := by
  obtain ⟨c, b, -, -, rfl⟩ := execEncP3_eq_next.mp h
  exact ⟨((stepsFrame_putDestByte ..).advanceOutpos 3).advanceIdx, by simp, by simp⟩

theorem execDecP0_effect (h : execDecP0 s = .next t) : StepEffect 1 s t := by
  obtain ⟨b, -, -, rfl⟩ := execDecP0_eq_next.mp h
  exact ⟨((stepsFrame_putDestText ..).advanceOutpos 1).advanceIdx, by simp, by simp⟩

theorem execDecP1_effect (h : execDecP1 s = .next t) : StepEffect 1 s t := by
  obtain ⟨b, k, p, -, -, -, -, rfl⟩ := execDecP1_eq_next.mp h
  exact ⟨((stepsFrame_putDestText ..).advanceOutpos 1).advanceIdx, by simp, by simp⟩

theorem execDecP2_effect (h : execDecP2 s = .next t) : StepEffect 2 s t := by
  obtain ⟨b, k, p, -, -, -, -, rfl⟩ := execDecP2_eq_next.mp h
  have hfirst := stepsFrame_putDestText s (outAddr s) (xlateOut s.tables (sym42 (byteLow4 p) (byteTop2 b)))
  exact ⟨(((hfirst.advanceOutpos 1).trans (stepsFrame_putDestText ..)).advanceOutpos 1).advanceIdx, by simp,
    by simp [Nat.add_assoc]⟩

end Effect

/-- The step of a conversion in this direction, in the phase that `IDX` says (R14). -/
def conversionStep : Dir → State → Outcome
  | .encode => encStep
  | .decode => decStep

section Conversion

variable {dir : Dir} {s t : State}

/-- A step of a conversion moves the output cursor as rule R15 says. -/
theorem conversionStep_effect (h : conversionStep dir s = .next t) :
    ∃ n, StepEffect n s t ∧ outposAt dir (s.idx + 1) = outposAt dir s.idx + n := by
  cases dir <;> simp only [conversionStep, encStep, decStep] at h <;> split_ifs at h <;> simp only [outposAt]
  · exact ⟨0, execEncP0_effect h, by omega⟩
  · exact ⟨0, execEncP1_effect h, by omega⟩
  · exact ⟨0, execEncP2_effect h, by omega⟩
  · exact ⟨3, execEncP3_effect h, by omega⟩
  · exact ⟨1, execDecP0_effect h, by omega⟩
  · exact ⟨1, execDecP1_effect h, by omega⟩
  · exact ⟨2, execDecP2_effect h, by omega⟩

/-- Inside its bounds a conversion keeps them, and its cursor stays in place (R13, R15, R35). -/
theorem conversionStep_runLegal (hs : RunLegal s) (hi : s.idx < s.run.cnt) (h : conversionStep s.run.dir s = .next t) :
    RunLegal t := by
  obtain ⟨n, he, ho⟩ := conversionStep_effect h
  obtain ⟨-, hout, hneed, hsrc, hdst⟩ := hs
  simp only [RunLegal, he.frame.run, he.frame.src, he.frame.destSize, he.idx, he.outpos, ho, hout]
  exact ⟨hi, trivial, hneed, hsrc, hdst⟩

theorem encStep_goes_on (hs : RunLegal s) (hi : s.idx < s.run.cnt) (hd : s.run.dir = .encode) :
    ∃ t, encStep s = .next t := by
  obtain ⟨-, hout, hneed, hsrc, hdst⟩ := hs
  simp only [hd, outposAt, needOf, byteCount, sourceSize, destSize] at hout hneed hsrc hdst
  have hread := Memory.read_some (m := s.src.text) (k := s.run.off + s.idx) (by omega)
  have hdest (k : Nat) (hk : k < s.dest.bytes.size) := Memory.read_some (m := s.dest.bytes) hk
  unfold encStep
  split_ifs
  · exact ⟨_, execEncP0_eq_next.mpr ⟨_, hread, by simp only [outAddr]; omega, rfl⟩⟩
  · exact ⟨_, execEncP1_eq_next.mpr ⟨_, _, hread, hdest _ (by simp only [outAddr]; omega),
      by simp only [outAddr]; omega, rfl⟩⟩
  · exact ⟨_, execEncP2_eq_next.mpr ⟨_, _, hread, hdest _ (by simp only [outAddr]; omega),
      by simp only [outAddr]; omega, rfl⟩⟩
  · exact ⟨_, execEncP3_eq_next.mpr ⟨_, _, hread, hdest _ (by simp only [outAddr]; omega), rfl⟩⟩

theorem decStep_goes_on (hs : RunLegal s) (hi : s.idx < s.run.cnt) (hd : s.run.dir = .decode) :
    ∃ t, decStep s = .next t := by
  obtain ⟨-, hout, hneed, hsrc, hdst⟩ := hs
  simp only [hd, outposAt, needOf, charCount, sourceSize, destSize] at hout hneed hsrc hdst
  have hread (k : Nat) (hk : k ≤ s.run.off + s.idx) := Memory.read_some (m := s.src.bytes) (k := k) (by omega)
  unfold decStep
  split_ifs
  · exact ⟨_, execDecP0_eq_next.mpr ⟨_, hread _ le_rfl, by simp only [outAddr]; omega, rfl⟩⟩
  · exact ⟨_, execDecP1_eq_next.mpr ⟨_, s.run.off + s.idx - 1, _, hread _ le_rfl, by omega, hread _ (by omega),
      by simp only [outAddr]; omega, rfl⟩⟩
  · exact ⟨_, execDecP2_eq_next.mpr ⟨_, s.run.off + s.idx - 1, _, hread _ le_rfl, by omega, hread _ (by omega),
      by simp only [outAddr]; omega, rfl⟩⟩

/-- Inside its bounds a conversion with elements left goes on: every element that its step reads or writes exists
(R35). -/
theorem conversionStep_goes_on (hs : RunLegal s) (hi : s.idx < s.run.cnt) :
    ∃ t, conversionStep s.run.dir s = .next t := by
  cases hd : s.run.dir with
  | encode => exact encStep_goes_on hs hi hd
  | decode => exact decStep_goes_on hs hi hd

end Conversion

end Sys2Proof.Machine
end

section
/-! Who moves next, what an instruction that goes on has done, and what each move of the host keeps. -/

namespace Sys2Proof.Machine

/-! ### Who moves next (R155) -/

section NextMove

variable {s : State}

theorem step_of_idle_nil (hi : Idle s) (hh : s.host = []) : step s = .next s := by
  simp only [step, nextMove, hh, hi, Bool.false_eq_true, if_false]

theorem step_of_busy_nil (hb : busy s = true) (hh : s.host = []) : step s = engineMove s := by
  simp only [step, nextMove, hh, hb, if_true]

theorem step_of_idle_cons {m : HostMove} {rest : List HostMove} (hi : Idle s) (hh : s.host = m :: rest) :
    step s = hostMoveIdle m { s with host := rest } := by
  simp only [step, nextMove, hh, hi, Bool.false_eq_true, if_false]

theorem step_of_busy_cons {m : HostMove} {rest : List HostMove} (hb : busy s = true) (hh : s.host = m :: rest) :
    step s = hostMoveBusy m { s with host := rest } := by
  simp only [step, nextMove, hh, hb, if_true]

/-- The step that `IDX` and the direction pick (R14), as an instruction. -/
def phaseInstr : Dir → Nat → Instr
  | .encode, i => if i % 4 = 0 then .encP0 else if i % 4 = 1 then .encP1 else if i % 4 = 2 then .encP2 else .encP3
  | .decode, i => if i % 3 = 0 then .decP0 else if i % 3 = 1 then .decP1 else .decP2

theorem decode_selector (s : State) : decode (.step3 (selector s)) = .ok (phaseInstr s.run.dir s.idx) := by
  cases hd : s.run.dir with
  | encode =>
    have hp : s.idx % 4 = 0 ∨ s.idx % 4 = 1 ∨ s.idx % 4 = 2 ∨ s.idx % 4 = 3 := by omega
    rcases hp with hp | hp | hp | hp <;> simp only [selector, phaseInstr, hd, hp] <;> rfl
  | decode =>
    have hp : s.idx % 3 = 0 ∨ s.idx % 3 = 1 ∨ s.idx % 3 = 2 := by omega
    rcases hp with hp | hp | hp <;> simp only [selector, phaseInstr, hd, hp] <;> rfl

theorem exec_phaseInstr (dir : Dir) (s : State) : exec (phaseInstr dir s.idx) s = conversionStep dir s := by
  cases dir <;> simp only [phaseInstr, conversionStep, encStep, decStep] <;> split_ifs <;> rfl

/-- A busy engine with elements left performs one step of its conversion. -/
theorem engineMove_of_lt (hi : s.idx < s.run.cnt) : engineMove s = conversionStep s.run.dir s := by
  rw [engineMove, if_pos hi, decode_selector]
  exact exec_phaseInstr s.run.dir s

/-- A busy engine with no element left ends the operation. -/
theorem engineMove_of_le (hi : s.run.cnt ≤ s.idx) : engineMove s = finishOp s := by
  rw [engineMove, if_neg (Nat.not_lt.mpr hi)]

end NextMove

/-! ### What an instruction that goes on has done -/

theorem exec_of_conversionForm {i : Instr} {f : OpForm} (h : conversionForm i = some f) (s : State) :
    exec i s = convert f (conversionStep f.dir) s := by
  cases i <;> cases h <;> rfl

theorem repeatStep_frame {dir : Dir} :
    ∀ {n : Nat} {s t : State}, repeatStep (conversionStep dir) n s = .next t → StepsFrame s t
  | 0, s, t, h => Host.Outcome.next.inj h ▸ StepsFrame.refl s
  | n + 1, s, t, h => by
    obtain ⟨u, hu, ht⟩ := andThen_eq_next.mp h
    obtain ⟨_, he, -⟩ := conversionStep_effect hu
    exact he.frame.trans (repeatStep_frame ht)

/-- What an instruction that goes on has done: one step of a conversion; or it has raised an error; or it was a query and
has answered; or it was a conversion, and has begun, taken its steps and ended. -/
inductive Executed (s t : State) : Prop
  | steps (h : StepsFrame s t)
  | raised (e : ArgError) (h : t = setEnded (errCode e) s)
  | answered (n : Nat) (h : t = { s with result := n, status := 0 })
  | converted (f : OpForm) (u : State) (hu : StepsFrame (beginOp f s) u)
      (h : t = { deliver u with result := u.run.need, status := 0 })

theorem convert_executed {f : OpForm} {dir : Dir} {s t : State} (h : convert f (conversionStep dir) s = .next t) :
    Executed s t := by
  obtain ⟨r, -, hr⟩ | ⟨e, -, -, he⟩ | ⟨-, -, hc⟩ := convert_cases f (conversionStep dir) s
  · cases hr.symm.trans h
  · exact .raised e (Host.Outcome.next.inj (h.symm.trans he))
  · obtain ⟨u, hu, ht⟩ := andThen_eq_next.mp (hc.symm.trans h)
    exact .converted f u (repeatStep_frame hu) (Host.Outcome.next.inj ht).symm

theorem query_executed {f : OpForm} {s t : State} (h : query f s = .next t) : Executed s t := by
  obtain ⟨r, -, hr⟩ | ⟨e, -, -, he⟩ | ⟨-, -, hc⟩ := query_cases f s
  · cases hr.symm.trans h
  · exact .raised e (Host.Outcome.next.inj (h.symm.trans he))
  · exact .answered _ (Host.Outcome.next.inj (h.symm.trans hc))

theorem maxQuery_executed {dir : Dir} {whole : Bool} {s t : State} (h : maxQuery dir whole s = .next t) :
    Executed s t := by
  obtain ⟨-, hr⟩ | ⟨-, -, hr⟩ | ⟨-, -, -, hr⟩ | ⟨-, -, -, hc⟩ := maxQuery_cases dir whole s
  · cases hr.symm.trans h
  · cases hr.symm.trans h
  · cases hr.symm.trans h
  · exact .answered _ (Host.Outcome.next.inj (h.symm.trans hc))

theorem exec_executed {i : Instr} {s t : State} (h : exec i s = .next t) : Executed s t := by
  cases i with
  | encode whole | encodeInto whole => exact convert_executed (dir := .encode) h
  | decode whole | decodeInto whole => exact convert_executed (dir := .decode) h
  | getByteCount whole | getCharCount whole => exact query_executed h
  | getMaxByteCount whole | getMaxCharCount whole => exact maxQuery_executed h
  | encP0 => exact .steps (execEncP0_effect h).frame
  | encP1 => exact .steps (execEncP1_effect h).frame
  | encP2 => exact .steps (execEncP2_effect h).frame
  | encP3 => exact .steps (execEncP3_effect h).frame
  | decP0 => exact .steps (execDecP0_effect h).frame
  | decP1 => exact .steps (execDecP1_effect h).frame
  | decP2 => exact .steps (execDecP2_effect h).frame

theorem deliver_held_eq_or_cons (s : State) : (deliver s).held = s.held ∨ ∃ b, (deliver s).held = b :: s.held := by
  rw [deliver_held]
  split
  · exact .inl rfl
  · exact .inr ⟨_, rfl⟩

/-- Settles O44: the state `Executed` leaves is the state it began in but for `RESULT`, `STATUS`, the sequencing state and
the destination, which an allocating form hands over at its end. -/
theorem execLeavesHostState : Obligations.ExecLeavesHostState := by
  intro i s t h
  cases exec_executed h with
  | steps h =>
    obtain ⟨d, j, o, rfl, -⟩ := h
    simp [State.progress]
  | raised e h => simp [h]
  | answered n h => simp [h]
  | converted f u hu h =>
    obtain ⟨d, j, o, rfl, -⟩ := hu
    subst h
    have hheld := deliver_held_eq_or_cons ((beginOp f s).progress d j o)
    simpa [State.progress] using hheld


/-! ### What the machine's invariant asks of an update -/

theorem statusLegal_word {e : BitVec 2} (he : e ≠ 3) (b : Bool) :
    statusReserved (statusWord e b) = 0 ∧ statusErr (statusWord e b) ≠ 3 :=
  ⟨statusReserved_word e b, by rwa [statusErr_word]⟩

theorem errCode_ne_three (e : ArgError) : errCode e ≠ 3 := by cases e <;> decide

/-- Of an idle machine the invariant asks only canonical buffers and a legal `STATUS`. -/
theorem inv_of_idle {s : State} (hi : Idle s) (hm : MemoriesWf s) (hs : StatusLegal s) : Inv s :=
  ⟨hm, hs, fun hb => by cases hi.symm.trans hb⟩

theorem memoriesWf_deliver {s : State} (h : MemoriesWf s) : MemoriesWf (deliver s) := by
  obtain ⟨hsrc, hdst, hfresh, hheld⟩ := h
  unfold deliver
  split
  · exact ⟨hsrc, hdst, hfresh, hheld⟩
  · exact ⟨hsrc, hdst, Buffer.absent_wf, List.forall_mem_cons.mpr ⟨hfresh, hheld⟩⟩

theorem memoriesWf_beginOp {f : OpForm} {s : State} (h : MemoriesWf s) : MemoriesWf (beginOp f s) := by
  obtain ⟨hsrc, hdst, hfresh, hheld⟩ := h
  refine ⟨hsrc, hdst, ?_, hheld⟩
  rw [beginOp_fresh]
  split
  · exact hfresh
  · exact freshBuffer_wf ..

/-- A conversion that passes its checks begins inside its bounds (R35): the checks compare with the declared lengths,
which the buffers have. -/
theorem runLegal_beginOp {f : OpForm} {s : State} (hp : LaunchPremises f s)
    (hc : BuffersPresent f s ∧ SourceFits f s ∧ DestFits f s) : RunLegal (beginOp f s) := by
  obtain ⟨-, -, ⟨hsl, hdl⟩, -⟩ := hp
  obtain ⟨⟨hsp, hdp⟩, hsf, hdf⟩ := hc
  refine ⟨Nat.zero_le _, ?_, rfl, hsf.trans (hsl hsp), ?_⟩
  · cases h : f.dir <;> simp [sample, outposAt, h]
  · cases hinto : f.into with
    | false => simp [State.dest, sample, destBase, hinto]
    | true => simpa [State.dest, sample, destBase, hinto] using (hdf hinto).trans (hdl hinto (hdp hinto))

theorem inv_beginOp {f : OpForm} {s : State} (h : Inv s) (hp : LaunchPremises f s) (hc : checkFailure f s = none) :
    Inv (beginOp f s) := by
  obtain ⟨hm, ⟨-, herr⟩, -⟩ := h
  exact ⟨memoriesWf_beginOp hm, statusLegal_word herr true, fun _ => runLegal_beginOp hp (checkFailure_eq_none.mp hc)⟩

theorem inv_setEnded {e : BitVec 2} (he : e ≠ 3) {s : State} (hm : MemoriesWf s) : Inv (setEnded e s) :=
  inv_of_idle (busy_setEnded e s) hm (statusLegal_word he false)

theorem inv_finished {s : State} (hm : MemoriesWf s) (n : Nat) : Inv { s with result := n, status := 0 } :=
  inv_setEnded (e := 0) (by decide) (s := { s with result := n }) hm

/-! ### The invariant after an instruction, a launch and a move of the engine -/

theorem executed_inv {s t : State} (hi : Idle s) (h : Inv s) (he : Executed s t) : Inv t := by
  obtain ⟨hm, hs, -⟩ := h
  cases he with
  | steps hf => exact inv_of_idle (by rwa [Idle, busy, hf.status]) (hf.memoriesWf hm) (by rwa [StatusLegal, hf.status])
  | raised e he => exact he ▸ inv_setEnded (errCode_ne_three e) hm
  | answered n he => exact he ▸ inv_finished hm n
  | converted f u hu he => exact he ▸ inv_finished (memoriesWf_deliver (hu.memoriesWf (memoriesWf_beginOp hm))) _

theorem launch_inv {f : OpForm} {s t : State} (h : Inv s) (hl : launch f s = .next t) : Inv t := by
  obtain ⟨r, -, hr⟩ | ⟨e, -, -, he⟩ | ⟨hp, hc, hb⟩ := launch_cases f s
  · cases hr.symm.trans hl
  · exact Host.Outcome.next.inj (he.symm.trans hl) ▸ inv_setEnded (errCode_ne_three e) h.1
  · exact Host.Outcome.next.inj (hb.symm.trans hl) ▸ inv_beginOp h hp hc

theorem startOp_inv {i : Instr} {s t : State} (hi : Idle s) (h : Inv s) (hs : startOp i s = .next t) : Inv t := by
  unfold startOp at hs
  split at hs
  · exact launch_inv h hs
  · exact executed_inv hi h (exec_executed hs)

theorem engineMove_inv {s t : State} (hb : busy s = true) (h : Inv s) (he : engineMove s = .next t) : Inv t := by
  obtain ⟨hm, hs, hr⟩ := h
  by_cases hi : s.idx < s.run.cnt
  · rw [engineMove_of_lt hi] at he
    obtain ⟨n, hf, -⟩ := conversionStep_effect he
    exact ⟨hf.frame.memoriesWf hm, by rwa [StatusLegal, hf.frame.status],
      fun _ => conversionStep_runLegal (hr hb) hi he⟩
  · rw [engineMove_of_le (Nat.not_lt.mp hi), finishOp_eq] at he
    exact Host.Outcome.next.inj he ▸ inv_finished (memoriesWf_deliver hm) _

/-! ### What the host's moves keep -/

/-- What a move of the host that launches nothing keeps of an idle machine. -/
structure HostFrame (s t : State) : Prop where
  status : t.status = s.status
  tables : t.tables = s.tables
  memoriesWf : MemoriesWf s → MemoriesWf t

theorem hostFrame_writeOperand (r : OperandReg) (v : Nat) (s : State) : HostFrame s (writeOperand r v s) := by
  cases r <;> exact ⟨rfl, rfl, id⟩

/-- A read of the host changes what it has read and the count of draws, and nothing else. -/
theorem hostReadReg_eq (r : Reg) (s : State) : ∃ v n, hostReadReg r s = { s with hostRead := v, draws := n } := by
  unfold hostReadReg
  split
  · exact ⟨_, _, rfl⟩
  · exact ⟨_, _, rfl⟩

theorem hostReadElem_eq {w : Nat} (e : Option (BitVec w)) (free : BitVec w) (s : State) :
    ∃ v n, hostReadElem e free s = { s with hostRead := v, draws := n } := by
  cases e with
  | none => exact ⟨_, _, rfl⟩
  | some v => exact ⟨_, _, rfl⟩

theorem hostFrame_of_read {s t : State} (h : ∃ v n, t = { s with hostRead := v, draws := n }) : HostFrame s t := by
  obtain ⟨v, n, rfl⟩ := h
  exact ⟨rfl, rfl, id⟩

theorem buffer_wf {s : State} (h : MemoriesWf s) (b : BufferName) : (s.buffer b).wf = true := by
  obtain ⟨hsrc, hdst, -, hheld⟩ := h
  cases b with
  | src => exact hsrc
  | dst => exact hdst
  | held n =>
    rw [State.buffer, List.getD_eq_getElem?_getD]
    cases hn : s.held[n]? with
    | none => exact Buffer.absent_wf
    | some b => exact hheld b (List.mem_of_getElem? hn)

theorem hostFrame_replace {s : State} {b : BufferName} {v : Buffer} (hv : MemoriesWf s → v.wf = true) :
    HostFrame s (s.replace b v) := by
  refine ⟨by cases b <;> rfl, by cases b <;> rfl, fun h => ?_⟩
  have hvwf := hv h
  obtain ⟨hsrc, hdst, hfresh, hheld⟩ := h
  cases b with
  | src => exact ⟨hvwf, hdst, hfresh, hheld⟩
  | dst => exact ⟨hsrc, hvwf, hfresh, hheld⟩
  | held n =>
    refine ⟨hsrc, hdst, hfresh, fun b hb => ?_⟩
    obtain hb | rfl := List.mem_or_eq_of_mem_set hb
    · exact hheld b hb
    · exact hvwf

theorem hostFrame_discard (s : State) (b : BufferName) : HostFrame s (s.discard b) := by
  cases b with
  | src => exact hostFrame_replace (b := .src) fun _ => Buffer.absent_wf
  | dst => exact hostFrame_replace (b := .dst) fun _ => Buffer.absent_wf
  | held n => exact ⟨rfl, rfl, fun ⟨hsrc, hdst, hfresh, hheld⟩ =>
      ⟨hsrc, hdst, hfresh, fun b hb => hheld b (List.mem_of_mem_eraseIdx hb)⟩⟩

theorem freeBytes_wf (draw base : Nat) : ∀ (n : Nat) {m : Memory 8}, m.wf = true → (freeBytes draw base n m).wf = true
  | 0, _, h => h
  | n + 1, _, h => freeBytes_wf draw base n (Memory.put_wf h ..)

theorem freeTexts_wf (draw base : Nat) :
    ∀ (n : Nat) {m : Memory 21}, m.wf = true → (freeTexts draw base n m).wf = true
  | 0, _, h => h
  | n + 1, _, h => freeTexts_wf draw base n (Memory.put_wf h ..)

theorem abandon_tables (s : State) : (abandon s).tables = s.tables := by
  unfold abandon
  split
  · split <;> rfl
  · rfl

theorem memoriesWf_abandon {s : State} (h : MemoriesWf s) : MemoriesWf (abandon s) := by
  obtain ⟨hsrc, hdst, hfresh, hheld⟩ := h
  obtain ⟨ht, hb⟩ := Buffer.wf_iff.mp hdst
  unfold abandon
  split
  · split
    · exact ⟨hsrc, Buffer.wf_iff.mpr ⟨ht, freeBytes_wf _ _ _ hb⟩, hfresh, hheld⟩
    · exact ⟨hsrc, Buffer.wf_iff.mpr ⟨freeTexts_wf _ _ _ ht, hb⟩, hfresh, hheld⟩
  · exact ⟨hsrc, hdst, Buffer.absent_wf, hheld⟩

theorem resetEngine_tables (s : State) : (resetEngine s).tables = s.tables := by
  rw [resetEngine, resetRegisters_tables]
  split
  · exact abandon_tables s
  · rfl

theorem memoriesWf_resetEngine {s : State} (h : MemoriesWf s) : MemoriesWf (resetEngine s) := by
  have hm : MemoriesWf (if busy s then abandon s else s) := by
    split
    · exact memoriesWf_abandon h
    · exact h
  exact hm

theorem resetEngine_status (s : State) : (resetEngine s).status = 0 := rfl

theorem resetEngine_inv {s : State} (h : MemoriesWf s) : Inv (resetEngine s) := by
  refine inv_of_idle ?_ (memoriesWf_resetEngine h) ?_
  · rw [Idle, busy, resetEngine_status]
    rfl
  · rw [StatusLegal, resetEngine_status]
    decide

/-- A move of the host to an idle machine launches an operation, in one of the two views, or is a reset, or changes only
what is the host's. -/
inductive HostMoved (s t : State) : Prop
  | ran (i : Instr) (w : Byte) (h : exec i { s with cmd := w } = .next t)
  | started (i : Instr) (w : Byte) (h : startOp i { s with cmd := w } = .next t)
  | reset (h : t = resetEngine s)
  | kept (h : HostFrame s t)

theorem hostMoveIdle_moved {m : HostMove} {s t : State} (h : hostMoveIdle m s = .next t) : HostMoved s t := by
  cases m with
  | writeCmd w =>
    simp only [hostMoveIdle, writeCmd] at h
    split at h
    · exact .ran _ w h
    · cases h
  | startCmd w =>
    simp only [hostMoveIdle, startCmd] at h
    split at h
    · exact .started _ w h
    · cases h
  | reset => exact .reset (Host.Outcome.next.inj h).symm
  | writeReg r v => exact .kept (Host.Outcome.next.inj h ▸ hostFrame_writeOperand r v s)
  | writeBufctl v | tick | placeBuffers shared => exact .kept (Host.Outcome.next.inj h ▸ ⟨rfl, rfl, id⟩)
  | readReg r => exact .kept (Host.Outcome.next.inj h ▸ hostFrame_of_read (hostReadReg_eq r s))
  | readText b k | readByte b k => exact .kept (Host.Outcome.next.inj h ▸ hostFrame_of_read (hostReadElem_eq ..))
  | create c =>
    exact .kept (Host.Outcome.next.inj h ▸ ⟨rfl, rfl, fun ⟨hsrc, hdst, hfresh, hheld⟩ =>
      ⟨hsrc, hdst, hfresh, List.forall_mem_cons.mpr ⟨bufferOf_wf c, hheld⟩⟩⟩)
  | fill b c => exact .kept (Host.Outcome.next.inj h ▸ hostFrame_replace fun _ => bufferOf_wf c)
  | copy a b => exact .kept (Host.Outcome.next.inj h ▸ hostFrame_replace fun hs => buffer_wf hs a)
  | writeText b k v =>
    exact .kept (Host.Outcome.next.inj h ▸ hostFrame_replace fun hs => (sameShape_putText ..).wf (buffer_wf hs b))
  | writeByte b k v =>
    exact .kept (Host.Outcome.next.inj h ▸ hostFrame_replace fun hs => (sameShape_putByte ..).wf (buffer_wf hs b))
  | discard b => exact .kept (Host.Outcome.next.inj h ▸ hostFrame_discard s b)

/-- A move of the host to a busy machine lets the engine move, or is a reset, or is a read. -/
theorem hostMoveBusy_cases {m : HostMove} {s t : State} (h : hostMoveBusy m s = .next t) :
    engineMove s = .next t ∨ t = resetEngine s ∨ ∃ v n, t = { s with hostRead := v, draws := n } := by
  cases m <;> simp only [hostMoveBusy, reduceCtorEq] at h
  case tick => exact .inl h
  case reset => exact .inr (.inl (Host.Outcome.next.inj h).symm)
  case readReg r =>
    split at h
    · exact .inr (.inr (Host.Outcome.next.inj h ▸ hostReadReg_eq r s))
    · cases h
  case readText b k | readByte b k =>
    split at h
    · cases h
    · exact .inr (.inr (Host.Outcome.next.inj h ▸ hostReadElem_eq ..))

theorem hostMoveIdle_inv {m : HostMove} {s t : State} (hi : Idle s) (h : Inv s) (hm : hostMoveIdle m s = .next t) :
    Inv t := by
  have ⟨hwf, hst, _⟩ := h
  cases hostMoveIdle_moved hm with
  | ran i w hr => exact executed_inv (s := { s with cmd := w }) hi h (exec_executed hr)
  | started i w hr => exact startOp_inv (s := { s with cmd := w }) hi h hr
  | reset hr => exact hr ▸ resetEngine_inv hwf
  | kept hf => exact inv_of_idle (by rwa [Idle, busy, hf.status]) (hf.memoriesWf hwf) (by rwa [StatusLegal, hf.status])

theorem hostMoveBusy_inv {m : HostMove} {s t : State} (hb : busy s = true) (h : Inv s)
    (hm : hostMoveBusy m s = .next t) : Inv t := by
  obtain he | rfl | ⟨v, n, rfl⟩ := hostMoveBusy_cases hm
  · exact engineMove_inv hb h he
  · exact resetEngine_inv h.1
  · exact h

/-- A step is a move of the engine, or of the host to an idle or to a busy machine, or nothing. -/
theorem step_cases {s t : State} (h : step s = .next t) :
    t = s ∨ (busy s = true ∧ engineMove s = .next t) ∨
    (∃ m rest, Idle s ∧ hostMoveIdle m { s with host := rest } = .next t) ∨
    (∃ m rest, busy s = true ∧ hostMoveBusy m { s with host := rest } = .next t) := by
  cases hh : s.host with
  | nil =>
    cases hb : busy s with
    | false => exact .inl (Host.Outcome.next.inj ((step_of_idle_nil hb hh).symm.trans h)).symm
    | true => exact .inr (.inl ⟨rfl, (step_of_busy_nil hb hh).symm.trans h⟩)
  | cons m rest =>
    cases hb : busy s with
    | false => exact .inr (.inr (.inl ⟨m, rest, hb, (step_of_idle_cons hb hh).symm.trans h⟩))
    | true => exact .inr (.inr (.inr ⟨m, rest, rfl, (step_of_busy_cons hb hh).symm.trans h⟩))

/-- Settles O46, by the cases of a step. -/
theorem stepKeepsInvariant : Obligations.StepKeepsInvariant := by
  intro s t hs h
  obtain rfl | ⟨hb, he⟩ | ⟨m, rest, hi, hm⟩ | ⟨m, rest, hb, hm⟩ := step_cases h
  · exact hs
  · exact engineMove_inv hb hs he
  · exact hostMoveIdle_inv (s := { s with host := rest }) hi hs hm
  · exact hostMoveBusy_inv (s := { s with host := rest }) hb hs hm

end Sys2Proof.Machine
end

section
/-! The tables through every step, the default `ENC_INDEX`, and an operation seen step by step. -/

namespace Sys2Proof.Machine

/-! ### No step changes the tables (R20) -/

theorem exec_tables {i : Instr} {s t : State} (h : exec i s = .next t) : t.tables = s.tables := by
  obtain ⟨-, -, -, -, -, -, -, -, htables, -⟩ := execLeavesHostState i s t h
  exact htables

theorem startOp_tables {i : Instr} {s t : State} (h : startOp i s = .next t) : t.tables = s.tables := by
  unfold startOp at h
  split at h
  · next f _ =>
    obtain ⟨r, -, hr⟩ | ⟨e, -, -, he⟩ | ⟨-, -, hb⟩ := launch_cases f s
    · cases hr.symm.trans h
    · exact Host.Outcome.next.inj (he.symm.trans h) ▸ rfl
    · exact Host.Outcome.next.inj (hb.symm.trans h) ▸ rfl
  · exact exec_tables h

theorem engineMove_tables {s t : State} (h : engineMove s = .next t) : t.tables = s.tables := by
  by_cases hi : s.idx < s.run.cnt
  · rw [engineMove_of_lt hi] at h
    obtain ⟨n, ⟨⟨d, i, o, rfl, -⟩, -, -⟩, -⟩ := conversionStep_effect h
    rfl
  · rw [engineMove_of_le (Nat.not_lt.mp hi), finishOp_eq] at h
    exact Host.Outcome.next.inj h ▸ deliver_tables s

theorem hostMoveIdle_tables {m : HostMove} {s t : State} (h : hostMoveIdle m s = .next t) : t.tables = s.tables := by
  cases hostMoveIdle_moved h with
  | ran i w hr => exact exec_tables (s := { s with cmd := w }) hr
  | started i w hr => exact startOp_tables (s := { s with cmd := w }) hr
  | reset hr => exact hr ▸ resetEngine_tables s
  | kept hf => exact hf.tables

theorem hostMoveBusy_tables {m : HostMove} {s t : State} (h : hostMoveBusy m s = .next t) : t.tables = s.tables := by
  obtain he | rfl | ⟨v, n, rfl⟩ := hostMoveBusy_cases h
  · exact engineMove_tables he
  · exact resetEngine_tables s
  · rfl

/-- Settles O45, by the cases of a step. -/
theorem stepKeepsTables : Obligations.StepKeepsTables := by
  intro s t h
  obtain rfl | ⟨-, he⟩ | ⟨m, rest, -, hm⟩ | ⟨m, rest, -, hm⟩ := step_cases h
  · rfl
  · exact engineMove_tables he
  · exact hostMoveIdle_tables (s := { s with host := rest }) hm
  · exact hostMoveBusy_tables (s := { s with host := rest }) hm

/-! ### The default `ENC_INDEX` (R21) -/

theorem slots_rising : slots.Pairwise (· < ·) := by
  refine List.pairwise_map.mpr (List.pairwise_lt_range.imp_of_mem fun {i j} hi hj hij => ?_)
  have hi := List.mem_range.mp hi
  have hj := List.mem_range.mp hj
  simp only [BitVec.lt_def, BitVec.toNat_ofNat]
  omega

/-- Looking `c` up in the default listing of some slots is finding the first of them that is assigned and holds `c`. -/
theorem firstListed_default (t : TableData) (c : CodePoint) : ∀ l : List Sym6,
    firstListed c (l.filterMap fun s => if t.assignedAt s then some (t.codeAt s, s) else none) =
      l.find? fun s => t.assignedAt s && decide (t.codeAt s = c)
  | [] => rfl
  | s :: rest => by
    have ih := firstListed_default t c rest
    cases ha : t.assignedAt s with
    | false => simpa [ha] using ih
    | true =>
      by_cases hc : t.codeAt s = c
      · simp [ha, hc, firstListed]
      · simpa [ha, hc, firstListed] using ih

/-- The first element with a property is, in a rising list, the lowest one. -/
theorem find?_eq_some_iff_lowest {n : Nat} {p : BitVec n → Bool} {l : List (BitVec n)} (hl : l.Pairwise (· < ·))
    {x : BitVec n} : l.find? p = some x ↔ x ∈ l ∧ p x = true ∧ ∀ y ∈ l, y < x → ¬ p y = true := by
  induction l with
  | nil => simp
  | cons a rest ih =>
    obtain ⟨ha, hrest⟩ := List.pairwise_cons.mp hl
    cases hp : p a with
    | true =>
      rw [List.find?_cons_of_pos hp]
      constructor
      · rintro ⟨⟩
        refine ⟨List.mem_cons_self .., hp, fun y hy hlt => ?_⟩
        obtain rfl | hy := List.mem_cons.mp hy
        · exact absurd hlt (BitVec.lt_irrefl y)
        · exact absurd hlt (BitVec.lt_asymm (ha y hy))
      · rintro ⟨hx, -, hmin⟩
        obtain rfl | hx := List.mem_cons.mp hx
        · rfl
        · exact absurd hp (hmin a (List.mem_cons_self ..) (ha x hx))
    | false =>
      have hne : p x = true → x ≠ a := fun hx hxa => by simp [hxa, hp] at hx
      rw [List.find?_cons_of_neg (by simp [hp]), ih hrest]
      constructor
      · rintro ⟨hx, hpx, hmin⟩
        refine ⟨List.mem_cons_of_mem a hx, hpx, List.forall_mem_cons.mpr ⟨by simp [hp], hmin⟩⟩
      · rintro ⟨hx, hpx, hmin⟩
        exact ⟨(List.mem_cons.mp hx).resolve_left (hne hpx), hpx, (List.forall_mem_cons.mp hmin).2⟩

theorem xlateIn_eq_getD (t : Tables) (c : CodePoint) : xlateIn t c = (t.lookup c).getD t.fallback := by
  simp only [xlateIn, encLookup]
  cases t.lookup c <;> rfl

/-- Settles O41: the default listing has the slots in rising order, so the first one listed for a code point is the lowest
one that holds it. -/
theorem defaultIndexIsFirstOccurrence : Obligations.DefaultIndexIsFirstOccurrence := by
  refine ⟨fun t c x ht => ?_, xlateIn_eq_getD⟩
  have hfirst : firstListed c t.encIndex = slots.find? fun s => t.assignedAt s && decide (t.codeAt s = c) := by
    rw [ht]
    exact firstListed_default t c slots
  unfold TableData.lookup
  split
  · next hc =>
    rw [hfirst, find?_eq_some_iff_lowest slots_rising]
    simp [hc, mem_slots, and_assoc]
  · next hc => simp [hc]

/-! ### An operation seen step by step (R10, R172) -/

theorem finishOp_next (s : State) :
    ∃ t, finishOp s = .next t ∧ busy t = false ∧ statusErr t.status = 0 ∧ t.result = s.run.need :=
  ⟨_, rfl, busy_setEnded 0 (deliver s), statusErr_word 0 false, rfl⟩

/-- A busy machine whose host has no move takes the steps of its conversion that are left, and then ends it. -/
theorem repeatStep_step : ∀ {n : Nat} {s : State}, busy s = true → s.host = [] → s.idx + n = s.run.cnt →
    repeatStep step (n + 1) s = andThen (repeatStep (conversionStep s.run.dir) n s) finishOp
  | 0, s, hb, hh, hn => by
    rw [repeatStep_succ, repeatStep_zero, andThen_next, repeatStep_zero, andThen_next, step_of_busy_nil hb hh,
      engineMove_of_le (by omega)]
  | n + 1, s, hb, hh, hn => by
    have hstep : step s = conversionStep s.run.dir s := by
      rw [step_of_busy_nil hb hh, engineMove_of_lt (by omega)]
    simp only [repeatStep, andThen_assoc, hstep]
    cases hc : conversionStep s.run.dir s with
    | fault r | refused r => rfl
    | next t =>
      obtain ⟨_, ⟨hframe, hidx, -⟩, -⟩ := conversionStep_effect hc
      have ih := repeatStep_step (n := n) (s := t) (by rwa [busy, hframe.status]) (by rw [hframe.host, hh])
        (by rw [hframe.run, hidx]; omega)
      rw [hframe.run] at ih
      exact ih

/-- Inside its bounds a conversion takes every step that is left. -/
theorem repeatStep_conversionStep_goes_on : ∀ {n : Nat} {s : State}, RunLegal s → s.idx + n ≤ s.run.cnt →
    ∃ t, repeatStep (conversionStep s.run.dir) n s = .next t
  | 0, s, _, _ => ⟨s, rfl⟩
  | n + 1, s, hs, hn => by
    have hi : s.idx < s.run.cnt := by omega
    obtain ⟨t, ht⟩ := conversionStep_goes_on hs hi
    obtain ⟨_, ⟨hframe, hidx, -⟩, -⟩ := conversionStep_effect ht
    obtain ⟨u, hu⟩ := repeatStep_conversionStep_goes_on (n := n) (conversionStep_runLegal hs hi ht)
      (by rw [hframe.run, hidx]; omega)
    rw [hframe.run] at hu
    exact ⟨u, by simp only [repeatStep, ht, andThen_next, hu]⟩

/-- Settles O48: the steps left all go on, and the move after them ends the operation. -/
theorem busyEngineEnds : Obligations.BusyEngineEnds := by
  intro s ⟨_, _, hrun⟩ hb hh
  have hle : s.idx + (s.run.cnt - s.idx) = s.run.cnt := Nat.add_sub_of_le (hrun hb).1
  obtain ⟨u, hu⟩ := repeatStep_conversionStep_goes_on (hrun hb) hle.le
  obtain ⟨t, ht, hidle, herr, hres⟩ := finishOp_next u
  exact ⟨t, by rw [repeatStep_step hb hh hle, hu, andThen_next, ht], hidle, herr,
    by rw [hres, (repeatStep_frame hu).run]⟩

/-- A launch that does not begin a conversion is the whole operation. -/
theorem launch_eq_convert {f : OpForm} {s : State}
    (h : ¬ (LaunchPremises f s ∧ BuffersPresent f s ∧ SourceFits f s ∧ DestFits f s)) (g : State → Outcome) :
    launch f s = convert f g s := by
  unfold launch convert
  cases hp : premiseFailure f s with
  | some r => rfl
  | none =>
    cases hc : checkFailure f s with
    | some e => rfl
    | none => exact absurd ⟨premiseFailure_eq_none.mp hp, checkFailure_eq_none.mp hc⟩ h

section Begins

variable {f : OpForm} {s : State}
  (h : LaunchPremises f s ∧ BuffersPresent f s ∧ SourceFits f s ∧ DestFits f s)
include h

theorem launch_begins : launch f s = .next (beginOp f s) := by
  simp only [launch, premiseFailure_eq_none.mpr h.1, checkFailure_eq_none.mpr h.2]

theorem convert_begins (g : State → Outcome) :
    convert f g s = andThen (repeatStep g (effCnt f.whole s) (beginOp f s)) finishOp := by
  simp only [convert, premiseFailure_eq_none.mpr h.1, checkFailure_eq_none.mpr h.2]

end Begins

theorem step_startCmd {s : State} (hi : Idle s) (hh : s.host = []) (w : Byte) :
    step { s with host := [.startCmd w] } = startCmd w s := by
  have hs : { s with host := [] } = s := by rw [← hh]
  rw [step_of_idle_cons (s := { s with host := [.startCmd w] }) hi rfl]
  exact congrArg (startCmd w) hs

theorem startCmd_of_error {w : Byte} {e : DecodeReject} (h : decode (.cmd8 w) = .error e) (s : State) :
    startCmd w s = .refused .reservedCommand := by
  simp only [startCmd, h]

theorem startCmd_of_query {w : Byte} {i : Instr} (h : decode (.cmd8 w) = .ok i) (hf : conversionForm i = none)
    (s : State) : startCmd w s = exec i { s with cmd := w } := by
  simp only [startCmd, h, startOp, hf]

theorem startCmd_of_conversion {w : Byte} {i : Instr} {f : OpForm} (h : decode (.cmd8 w) = .ok i)
    (hf : conversionForm i = some f) (s : State) : startCmd w s = launch f { s with cmd := w } := by
  simp only [startCmd, h, startOp, hf]

/-- Settles O49: a launch that does not begin a conversion is `exec`, and one that does goes on, by `repeatStep_step`, with
the steps and the end that `exec` is made of. -/
theorem stepwiseEqualsIndivisible : Obligations.StepwiseEqualsIndivisible := by
  intro s w hi hh
  refine ⟨fun e he => ?_, fun i hd hf => ?_, fun i f hd hf => ⟨fun hno => ?_, fun hyes => ?_⟩⟩
  · rw [step_startCmd hi hh, startCmd_of_error he]
  · rw [step_startCmd hi hh, startCmd_of_query hd hf]
  · rw [step_startCmd hi hh, startCmd_of_conversion hd hf, exec_of_conversionForm hf]
    exact launch_eq_convert (s := { s with cmd := w }) hno _
  · have hbegin := launch_begins (s := { s with cmd := w }) hyes
    rw [exec_of_conversionForm hf, convert_begins (s := { s with cmd := w }) hyes]
    change andThen (step _) (repeatStep step (effCnt f.whole s + 1)) = _
    rw [step_startCmd hi hh, startCmd_of_conversion hd hf, hbegin, andThen_next]
    exact repeatStep_step (busy_beginOp ..) hh (Nat.zero_add _)

end Sys2Proof.Machine
end

section
/-! Reset, single moves of the host, single moves of the engine, and the Max queries. -/

namespace Sys2Proof.Machine

/-! ### Reset and idling -/

theorem reset_status : State.reset.status = 0 := rfl

theorem reset_idle : Idle State.reset := by rw [Idle, busy, reset_status]; rfl

/-- Settles O1: slot 0 of legal tables is the space, and an idle machine without a host move stays as it is. -/
theorem resetStateIsIdle : Obligations.ResetStateIsIdle :=
  ⟨reset_status, by rw [reset_status]; rfl, reset_idle, rfl, rfl, rfl, rfl, (Tables.space _).1,
    step_of_idle_nil reset_idle rfl⟩

theorem memoriesWf_reset : MemoriesWf State.reset :=
  ⟨Buffer.absent_wf, Buffer.absent_wf, Buffer.absent_wf, List.forall_mem_nil _⟩

/-- Settles O2: no buffer is supplied and the engine is idle. -/
theorem invariantHoldsAtReset : Obligations.InvariantHoldsAtReset :=
  inv_of_idle reset_idle memoriesWf_reset (by rw [StatusLegal, reset_status]; decide)

theorem resetEngine_of_idle {s : State} (hi : Idle s) : resetEngine s = resetRegisters s := by
  rw [resetEngine, if_neg (Bool.eq_false_iff.mp hi)]

/-- Settles O53: the engine is idle, so nothing is abandoned, and the registers take their reset values. -/
theorem resetWhileIdle : Obligations.ResetWhileIdle := by
  intro s rest hi hh
  have hstep : step s = .next (resetRegisters { s with host := rest }) := by
    rw [← resetEngine_of_idle (s := { s with host := rest }) hi]
    exact step_of_idle_cons hi hh
  exact ⟨_, hstep, rfl, rfl, rfl, rfl, rfl, rfl, rfl, rfl, rfl⟩

/-! ### A write of `CMD` -/

theorem writeCmd_of_ok {w : Byte} {i : Instr} (h : decode (.cmd8 w) = .ok i) (s : State) :
    writeCmd w s = exec i { s with cmd := w } := by
  simp only [writeCmd, h]

theorem writeCmd_of_error {w : Byte} {e : DecodeReject} (h : decode (.cmd8 w) = .error e) (s : State) :
    writeCmd w s = .refused .reservedCommand := by
  simp only [writeCmd, h]

/-- Settles O8: the move of an idle machine's host is the write of `CMD`. -/
theorem commandStepRunsInstruction : Obligations.CommandStepRunsInstruction := by
  intro s w rest hi hh
  have hstep : step s = writeCmd w { s with host := rest } := step_of_idle_cons hi hh
  exact ⟨fun i h => hstep.trans (writeCmd_of_ok h _), fun e h => hstep.trans (writeCmd_of_error h _)⟩

/-! ### The engine's moves -/

theorem phaseInstr_encode {i : Nat} :
    (i % 4 = 0 → phaseInstr .encode i = .encP0) ∧ (i % 4 = 1 → phaseInstr .encode i = .encP1) ∧
    (i % 4 = 2 → phaseInstr .encode i = .encP2) ∧ (i % 4 = 3 → phaseInstr .encode i = .encP3) := by
  refine ⟨?_, ?_, ?_, ?_⟩ <;> intro h <;> simp [phaseInstr, h]

theorem phaseInstr_decode {i : Nat} :
    (i % 3 = 0 → phaseInstr .decode i = .decP0) ∧ (i % 3 = 1 → phaseInstr .decode i = .decP1) ∧
    (i % 3 = 2 → phaseInstr .decode i = .decP2) := by
  refine ⟨?_, ?_, ?_⟩ <;> intro h <;> simp [phaseInstr, h]

/-- The selector `1 11` decodes to no step, and the selector of a state always does. -/
theorem selector_ne_seven (s : State) : selector s ≠ 0b111#3 := fun h => by
  have hd := decode_selector s
  rw [h] at hd
  cases hd

theorem step_of_busy_next {s u : State} (hb : busy s = true)
    (hu : s.host = [] ∧ u = s ∨ ∃ rest, s.host = .tick :: rest ∧ u = { s with host := rest }) :
    step s = engineMove u := by
  obtain ⟨hh, rfl⟩ | ⟨rest, hh, rfl⟩ := hu
  · exact step_of_busy_nil hb hh
  · exact step_of_busy_cons hb hh

/-- Settles O9: the selector decodes to the step of the direction and phase. -/
theorem engineStepRunsSelectedStep : Obligations.EngineStepRunsSelectedStep := by
  intro s u hb hi hu
  have hstep : step s = exec (phaseInstr s.run.dir s.idx) u := by
    have hsame : u.idx = s.idx ∧ u.run = s.run := by
      obtain ⟨-, rfl⟩ | ⟨rest, -, rfl⟩ := hu <;> exact ⟨rfl, rfl⟩
    obtain ⟨hidx, hrun⟩ := hsame
    rw [step_of_busy_next hb hu, engineMove_of_lt (by rwa [hidx, hrun]), hrun, ← hidx, exec_phaseInstr]
  refine ⟨fun hd => ?_, fun hd => ?_, selector_ne_seven s⟩
  · rw [hstep, hd]
    obtain ⟨h0, h1, h2, h3⟩ := phaseInstr_encode (i := s.idx)
    exact ⟨fun h => by rw [h0 h], fun h => by rw [h1 h], fun h => by rw [h2 h], fun h => by rw [h3 h]⟩
  · rw [hstep, hd]
    obtain ⟨h0, h1, h2⟩ := phaseInstr_decode (i := s.idx)
    exact ⟨fun h => by rw [h0 h], fun h => by rw [h1 h], fun h => by rw [h2 h]⟩

/-- Settles O10: the engine's move is the end of the conversion, which hands a fresh destination over. -/
theorem engineEndsConversion : Obligations.EngineEndsConversion := by
  intro s hb hh hi
  have hstep : step s = .next { deliver s with result := s.run.need, status := 0 } := by
    rw [step_of_busy_nil hb hh, engineMove_of_le hi, finishOp_eq]
  refine ⟨fun hinto => ?_, fun hinto => ?_⟩ <;> rw [hstep, deliver, hinto] <;> rfl

/-! ### The Max queries -/

theorem maxQuery_answers {s : State} (hi : Idle s) (hl : BufctlLegal s) (dir : Dir) :
    maxQuery dir false s = .next { s with result := needOf dir s.srcCnt, status := 0 } := by
  simp only [maxQuery, hi, hl, Bool.false_eq_true, if_false, ne_eq, not_true]
  rfl

/-- Settles O20: the answer of a Max query, with `ceil(6n/8)` as the length function of an encode (R120). -/
theorem getMaxByteCountResult : Obligations.GetMaxByteCountResult :=
  fun _ hi hl => maxQuery_answers hi hl .encode

/-- Settles O21: the answer of a Max query, with `floor(8n/6)` as the length function of a decode (R121). -/
theorem getMaxCharCountResult : Obligations.GetMaxCharCountResult :=
  fun _ hi hl => maxQuery_answers hi hl .decode

theorem maxQuery_whole (dir : Dir) (s : State) : maxQuery dir true s = .refused .reservedCommand := rfl

theorem maxQuery_busy {s : State} (hb : busy s = true) (dir : Dir) :
    maxQuery dir false s = .refused .launchWhileBusy := by
  simp only [maxQuery, hb, Bool.false_eq_true, if_false, if_true]

theorem maxQuery_reservedBits {s : State} (hi : Idle s) (hl : ¬ BufctlLegal s) (dir : Dir) :
    maxQuery dir false s = .refused .reservedBufctl := by
  simp only [maxQuery, hi, Bool.false_eq_true, if_false, ne_eq, hl, not_false_eq_true, if_true]

/-- Settles O22: the refusals are the same in both directions. -/
theorem maxQueryRefusals : Obligations.MaxQueryRefusals := fun s =>
  ⟨maxQuery_whole .encode s, maxQuery_whole .decode s,
    fun hb => ⟨maxQuery_busy hb .encode, maxQuery_busy hb .decode⟩,
    fun hi hl => ⟨maxQuery_reservedBits hi hl .encode, maxQuery_reservedBits hi hl .decode⟩⟩

/-! ### The host's registers -/

/-- A write of an operand register reads back, and every other register reads as before. -/
theorem regValue_writeOperand (r : OperandReg) (v : Nat) (s : State) :
    regValue (.operand r) (writeOperand r v s) = v ∧
      ∀ q : Reg, q ≠ .operand r → regValue q (writeOperand r v s) = regValue q s := by
  refine ⟨by cases r <;> rfl, fun q hq => ?_⟩
  cases q with
  | operand p => cases r <;> cases p <;> simp [regValue, writeOperand] at hq ⊢
  | result | cmd | status | bufctl => cases r <;> rfl

/-- Settles O50: a write of an operand register is `writeOperand`, which no other register sees. -/
theorem hostWritesOperandRegister : Obligations.HostWritesOperandRegister := by
  intro s rest hi
  refine ⟨fun r v hh => ?_, fun v hh => step_of_idle_cons hi hh⟩
  obtain ⟨hsame, hother⟩ := regValue_writeOperand r v { s with host := rest }
  refine ⟨writeOperand r v { s with host := rest }, step_of_idle_cons hi hh, hsame,
    fun q hq => (hother q hq).trans ?_, ?_⟩
  · cases q with
    | operand p => cases p <;> rfl
    | result | cmd | status | bufctl => rfl
  · cases r <;> simp [writeOperand]

theorem hostReadReg_bound {r : Reg} {s : State} (h : r ≠ .result ∨ statusErr s.status = 0) :
    hostReadReg r s = { s with hostRead := regValue r s } := by
  rw [hostReadReg, if_neg (by tauto)]

theorem hostReadReg_free {s : State} (h : statusErr s.status ≠ 0) :
    hostReadReg .result s = { s with hostRead := Config.freeResult s.draws, draws := s.draws + 1 } := by
  rw [hostReadReg, if_pos ⟨rfl, h⟩]

/-- Settles O52: a read gives the register's value, but a free one for `RESULT` after an error. -/
theorem hostReadsResult : Obligations.HostReadsResult := by
  intro s r rest hi hh
  have hstep : step s = .next (hostReadReg r { s with host := rest }) := step_of_idle_cons hi hh
  refine ⟨fun hbound => ⟨regValue r { s with host := rest }, ?_, ?_⟩, fun hr herr => ⟨Config.freeResult s.draws, ?_⟩⟩
  · rw [hstep, hostReadReg_bound (s := { s with host := rest }) hbound]
  · refine ⟨?_, ?_, ?_, ?_, ?_, ?_, ?_, ?_, ?_⟩ <;> rintro rfl <;> rfl
  · rw [hstep, hr, hostReadReg_free (s := { s with host := rest }) herr]

end Sys2Proof.Machine
end

section
/-! The host's reads of its buffers; the packed stream as a string of bits; and why no step faults. -/

namespace Sys2Proof.Machine

/-! ### The host's buffers -/

theorem buffer_host (s : State) (rest : List HostMove) (b : BufferName) :
    State.buffer { s with host := rest } b = s.buffer b := rfl

/-- Settles O55: a read of the host is `hostReadElem` of the element its buffer has there. -/
theorem hostReadsBuffers : Obligations.HostReadsBuffers := by
  intro s b k rest hi
  refine ⟨fun hh => ?_, fun hh => ?_⟩
  · have hstep : step s = .next (hostReadText b k { s with host := rest }) := step_of_idle_cons hi hh
    refine ⟨fun v hv => ?_, fun hnone => ⟨(Config.freeText s.draws k).toNat, ?_⟩⟩
    · rw [hstep, hostReadText, buffer_host, hv, hostReadElem_some]
    · rw [hstep, hostReadText, buffer_host, hnone, hostReadElem_none]
  · have hstep : step s = .next (hostReadByte b k { s with host := rest }) := step_of_idle_cons hi hh
    refine ⟨fun v hv => ?_, fun hnone => ⟨(Config.freeByte s.draws k).toNat, ?_⟩⟩
    · rw [hstep, hostReadByte, buffer_host, hv, hostReadElem_some]
    · rw [hstep, hostReadByte, buffer_host, hnone, hostReadElem_none]

/-! ### The bits of a vector (R31) -/

@[simp] theorem length_bitsMsb {w : Nat} (v : BitVec w) : (bitsMsb v).length = w := by simp [bitsMsb]

@[simp] theorem bitsMsb_zero (w : Nat) : bitsMsb (0#w) = List.replicate w false := by
  simp [bitsMsb, List.eq_replicate_iff]

/-- The bits of a concatenation are the bits of its parts, the upper part first. -/
theorem bitsMsb_append {m n : Nat} (x : BitVec m) (y : BitVec n) : bitsMsb (x ++ y) = bitsMsb x ++ bitsMsb y := by
  simp only [bitsMsb, List.range_add, List.map_append, List.map_map]
  congr 1
  · refine List.map_congr_left fun i hi => ?_
    rw [BitVec.getMsbD_append, if_neg (Nat.not_le.mpr (List.mem_range.mp hi))]
  · refine List.map_congr_left fun i _ => ?_
    simp [BitVec.getMsbD_append]

/-- A vector's bits are those of its upper `m` and of its lower `n` bits. -/
theorem bitsMsb_split (m n : Nat) (v : BitVec (m + n)) :
    bitsMsb v = bitsMsb (v.extractLsb' n m) ++ bitsMsb (v.extractLsb' 0 n) := by
  rw [← bitsMsb_append, BitVec.extractLsb'_append_extractLsb'_eq_extractLsb' (Nat.zero_add n).symm,
    BitVec.extractLsb'_eq_self]

/-! The two ways in which a symbol is divided between two bytes, and the three in which a byte is divided between two
symbols (R81 to R83, R100 to R102). -/

theorem bitsMsb_eq_symTop2_symLow4 (s : Sym6) : bitsMsb s = bitsMsb (symTop2 s) ++ bitsMsb (symLow4 s) :=
  bitsMsb_split 2 4 s

theorem bitsMsb_eq_symTop4_symLow2 (s : Sym6) : bitsMsb s = bitsMsb (symTop4 s) ++ bitsMsb (symLow2 s) :=
  bitsMsb_split 4 2 s

theorem bitsMsb_eq_byteTop6_byteLow2 (b : Byte) : bitsMsb b = bitsMsb (byteTop6 b) ++ bitsMsb (byteLow2 b) :=
  bitsMsb_split 6 2 b

theorem bitsMsb_eq_byteTop4_byteLow4 (b : Byte) : bitsMsb b = bitsMsb (byteTop4 b) ++ bitsMsb (byteLow4 b) :=
  bitsMsb_split 4 4 b

theorem bitsMsb_eq_byteTop2_byteLow6 (b : Byte) : bitsMsb b = bitsMsb (byteTop2 b) ++ bitsMsb (byteLow6 b) :=
  bitsMsb_split 2 6 b

@[simp] theorem bitsMsb_join62 (hi : BitVec 6) (lo : BitVec 2) : bitsMsb (join62 hi lo) = bitsMsb hi ++ bitsMsb lo :=
  bitsMsb_append hi lo

@[simp] theorem bitsMsb_join44 (hi lo : BitVec 4) : bitsMsb (join44 hi lo) = bitsMsb hi ++ bitsMsb lo :=
  bitsMsb_append hi lo

@[simp] theorem bitsMsb_join26 (hi : BitVec 2) (lo : BitVec 6) : bitsMsb (join26 hi lo) = bitsMsb hi ++ bitsMsb lo :=
  bitsMsb_append hi lo

@[simp] theorem bitsMsb_sym24 (hi : BitVec 2) (lo : BitVec 4) : bitsMsb (sym24 hi lo) = bitsMsb hi ++ bitsMsb lo :=
  bitsMsb_append hi lo

@[simp] theorem bitsMsb_sym42 (hi : BitVec 4) (lo : BitVec 2) : bitsMsb (sym42 hi lo) = bitsMsb hi ++ bitsMsb lo :=
  bitsMsb_append hi lo

/-! ### The packed stream and its bits (R85, R104) -/

theorem length_pack (l : List Sym6) : (pack l).length = byteCount l.length := by
  induction l using pack.induct with
  | case1 | case2 | case3 | case4 => simp [pack, byteCount]
  | case5 s0 s1 s2 s3 rest ih =>
    simp only [pack, List.length_cons, ih, byteCount]
    omega

theorem length_unpack (l : List Byte) : (unpack l).length = charCount l.length := by
  induction l using unpack.induct with
  | case1 | case2 | case3 => simp [unpack, charCount]
  | case4 b0 b1 b2 rest ih =>
    simp only [unpack, List.length_cons, ih, charCount]
    omega

/-- The bits of `Pack` are the bits of the symbols and zero padding up to a whole byte. -/
theorem pack_bits (l : List Sym6) :
    (pack l).flatMap bitsMsb =
      l.flatMap bitsMsb ++ List.replicate (8 * byteCount l.length - 6 * l.length) false := by
  induction l using pack.induct with
  | case1 => rfl
  | case2 s0 => simp [pack, byteCount]
  | case3 s0 s1 => simp [pack, byteCount, bitsMsb_eq_symTop2_symLow4 s1]
  | case4 s0 s1 s2 => simp [pack, byteCount, bitsMsb_eq_symTop2_symLow4 s1, bitsMsb_eq_symTop4_symLow2 s2]
  | case5 s0 s1 s2 s3 rest ih =>
    have hpad : 8 * byteCount (rest.length + 4) - 6 * (rest.length + 4) =
        8 * byteCount rest.length - 6 * rest.length := by
      simp only [byteCount]
      omega
    simp [pack, ih, hpad, bitsMsb_eq_symTop2_symLow4 s1, bitsMsb_eq_symTop4_symLow2 s2]

/-- The bits of `Unpack` are the bits of the bytes as far as whole symbols go. -/
theorem unpack_bits (l : List Byte) :
    (unpack l).flatMap bitsMsb = (l.flatMap bitsMsb).take (6 * charCount l.length) := by
  induction l using unpack.induct with
  | case1 => rfl
  | case2 b0 => simp [unpack, charCount, bitsMsb_eq_byteTop6_byteLow2 b0]
  | case3 b0 b1 =>
    simp [unpack, charCount, bitsMsb_eq_byteTop6_byteLow2 b0, bitsMsb_eq_byteTop4_byteLow4 b1, List.take_append,
      List.take_of_length_le]
  | case4 b0 b1 b2 rest ih =>
    have hcount : 6 * charCount (b0 :: b1 :: b2 :: rest).length =
        (bitsMsb b0 ++ (bitsMsb b1 ++ bitsMsb b2)).length + 6 * charCount rest.length := by
      simp only [charCount, List.length_cons, List.length_append, length_bitsMsb]
      omega
    have hbits : (b0 :: b1 :: b2 :: rest).flatMap bitsMsb =
        (bitsMsb b0 ++ (bitsMsb b1 ++ bitsMsb b2)) ++ rest.flatMap bitsMsb := by simp
    rw [hcount, hbits, List.take_length_add_append, ← ih]
    simp [unpack, bitsMsb_eq_byteTop6_byteLow2 b0, bitsMsb_eq_byteTop4_byteLow4 b1, bitsMsb_eq_byteTop2_byteLow6 b2]

/-- Settles O37, group by group. -/
theorem packIsBitString : Obligations.PackIsBitString := fun l => ⟨length_pack l, pack_bits l⟩

/-- Settles O38, group by group. -/
theorem unpackIsBitString : Obligations.UnpackIsBitString := fun l => ⟨length_unpack l, unpack_bits l⟩

/-! ### No step faults (R35, R140) -/

/-- The launch of a conversion is not refused and passes its checks. -/
abbrev Begins (f : OpForm) (s : State) : Prop :=
  LaunchPremises f s ∧ BuffersPresent f s ∧ SourceFits f s ∧ DestFits f s

/-- A conversion that begins takes all its steps and ends. -/
theorem convert_ends {f : OpForm} {s : State} (h : Begins f s) :
    ∃ u, repeatStep (conversionStep f.dir) (effCnt f.whole s) (beginOp f s) = .next u ∧
      convert f (conversionStep f.dir) s = .next { deliver u with result := u.run.need, status := 0 } := by
  obtain ⟨u, hu⟩ : ∃ u, repeatStep (conversionStep f.dir) (effCnt f.whole s) (beginOp f s) = .next u :=
    repeatStep_conversionStep_goes_on (runLegal_beginOp h.1 h.2) (Nat.zero_add _).le
  exact ⟨u, hu, by rw [convert_begins h, hu, andThen_next, finishOp_eq]⟩

theorem convert_ne_fault (f : OpForm) (s : State) (r : Fault) : convert f (conversionStep f.dir) s ≠ .fault r := by
  obtain ⟨_, -, h⟩ | ⟨_, -, -, h⟩ | ⟨hp, hc, -⟩ := convert_cases f (conversionStep f.dir) s
  · simp [h]
  · simp [h]
  · obtain ⟨u, -, h⟩ := convert_ends ⟨hp, checkFailure_eq_none.mp hc⟩
    simp [h]

theorem launch_ne_fault (f : OpForm) (s : State) (r : Fault) : launch f s ≠ .fault r := by
  obtain ⟨_, -, h⟩ | ⟨_, -, -, h⟩ | ⟨-, -, h⟩ := launch_cases f s <;> simp [h]

theorem query_ne_fault (f : OpForm) (s : State) (r : Fault) : query f s ≠ .fault r := by
  obtain ⟨_, -, h⟩ | ⟨_, -, -, h⟩ | ⟨-, -, h⟩ := query_cases f s <;> simp [h, finishWith]

theorem maxQuery_ne_fault (dir : Dir) (whole : Bool) (s : State) (r : Fault) : maxQuery dir whole s ≠ .fault r := by
  obtain ⟨-, h⟩ | ⟨-, -, h⟩ | ⟨-, -, -, h⟩ | ⟨-, -, -, h⟩ := maxQuery_cases dir whole s <;> simp [h, finishWith]

/-- A command word that decodes is the word of the operation its fields select (R51). -/
theorem decode_cmd8_eq_ok {w : Byte} {i : Instr} (h : decode (.cmd8 w) = .ok i) :
    i = opInstr (opField w) (wholeField w) := by
  simp only [decode, decodeCmd] at h
  split_ifs at h
  exact (Except.ok.inj h).symm

/-- None of the eight operations faults. -/
theorem exec_opInstr_ne_fault (op : BitVec 3) (whole : Bool) (s : State) (r : Fault) :
    exec (opInstr op whole) s ≠ .fault r := by
  unfold opInstr
  split_ifs
  · exact convert_ne_fault ⟨.encode, false, whole⟩ s r
  · exact convert_ne_fault ⟨.decode, false, whole⟩ s r
  · exact query_ne_fault ⟨.encode, false, whole⟩ s r
  · exact query_ne_fault ⟨.decode, false, whole⟩ s r
  · exact maxQuery_ne_fault .encode whole s r
  · exact maxQuery_ne_fault .decode whole s r
  · exact convert_ne_fault ⟨.encode, true, whole⟩ s r
  · exact convert_ne_fault ⟨.decode, true, whole⟩ s r

theorem exec_cmd8_ne_fault {w : Byte} {i : Instr} (h : decode (.cmd8 w) = .ok i) (s : State) (r : Fault) :
    exec i s ≠ .fault r :=
  decode_cmd8_eq_ok h ▸ exec_opInstr_ne_fault _ _ s r

theorem startOp_cmd8_ne_fault {w : Byte} {i : Instr} (h : decode (.cmd8 w) = .ok i) (s : State) (r : Fault) :
    startOp i s ≠ .fault r := by
  unfold startOp
  split
  · exact launch_ne_fault _ _ r
  · exact exec_cmd8_ne_fault h s r

/-- A busy engine inside its bounds performs a step that goes on, or ends its operation. -/
theorem engineMove_ne_fault {s : State} (hs : RunLegal s) (r : Fault) : engineMove s ≠ .fault r := by
  by_cases hi : s.idx < s.run.cnt
  · obtain ⟨t, ht⟩ := conversionStep_goes_on hs hi
    simp [engineMove_of_lt hi, ht]
  · simp [engineMove_of_le (Nat.not_lt.mp hi), finishOp_eq]

/-- Of the host's moves to an idle machine only the two that launch an operation can end otherwise than in a next
state. -/
theorem hostMoveIdle_ne_fault (m : HostMove) (s : State) (r : Fault) : hostMoveIdle m s ≠ .fault r := by
  cases m with
  | writeCmd w =>
    simp only [hostMoveIdle, writeCmd]
    split
    · next h => exact exec_cmd8_ne_fault h _ r
    · simp
  | startCmd w =>
    simp only [hostMoveIdle, startCmd]
    split
    · next h => exact startOp_cmd8_ne_fault h _ r
    · simp
  | _ => simp [hostMoveIdle]

/-- Of the host's moves to a busy machine only a wait lets the engine move. -/
theorem hostMoveBusy_ne_fault {s : State} (hs : RunLegal s) (m : HostMove) (r : Fault) :
    hostMoveBusy m s ≠ .fault r := by
  cases m with
  | tick => exact engineMove_ne_fault hs r
  | readReg q | readText b k | readByte b k =>
    simp only [hostMoveBusy]
    split <;> simp
  | _ => simp [hostMoveBusy]

/-- Settles O47: the invariant keeps a busy engine inside its bounds (`RunLegal`), and a launch begins inside them. -/
theorem invariantStepNeverFaults : Obligations.InvariantStepNeverFaults := by
  intro s r ⟨_, _, hrun⟩
  cases hh : s.host with
  | nil =>
    cases hb : busy s with
    | false => simp [step_of_idle_nil hb hh]
    | true => exact step_of_busy_nil hb hh ▸ engineMove_ne_fault (hrun hb) r
  | cons m rest =>
    cases hb : busy s with
    | false => exact step_of_idle_cons hb hh ▸ hostMoveIdle_ne_fault m _ r
    | true => exact step_of_busy_cons hb hh ▸ hostMoveBusy_ne_fault (s := { s with host := rest }) (hrun hb) m r

end Sys2Proof.Machine
end

section
/-! What a conversion leaves: how `Pack` and `Unpack` grow with one more source element, what a window of a buffer holds
while it is being written, and with both the result of each of the four conversions. -/

namespace Sys2Proof.Machine

/-! ### A window of a buffer that is being written (R30, R35) -/

section Window

variable {w : Nat}

theorem Memory.slice_succ (m : Memory w) (off n : Nat) :
    m.slice off (n + 1) = m.slice off n ++ [cellsRead m.cells (off + n)] := by
  simp [Memory.slice, List.range_succ]

theorem Memory.getElem?_toList (m : Memory w) (k : Nat) : m.toList[k]? = m.read k := by
  by_cases hk : k < m.size
  · simp [Memory.read_some hk, hk, Memory.getElem_toList]
  · simp [Memory.read_none (Nat.not_lt.mp hk), Nat.not_lt.mp hk]

/-- From `m₀` to `m` the elements from `base` on have become `out`, and no other has changed. -/
structure Filled (m₀ m : Memory w) (base : Nat) (out : List (BitVec w)) : Prop where
  size : m.size = m₀.size
  wf : m.wf = true
  window : ∀ j, j < out.length → m.read (base + j) = out[j]?
  outside : ∀ k, k < base ∨ base + out.length ≤ k → m.read k = m₀.read k

variable {m₀ m : Memory w} {base : Nat} {out : List (BitVec w)}

theorem Filled.nil (h : m.wf = true) (base : Nat) : Filled m m base [] :=
  ⟨rfl, h, fun _ hj => absurd hj (Nat.not_lt_zero _), fun _ _ => rfl⟩

/-- The element after the window is written. -/
theorem Filled.append (h : Filled m₀ m base out) (hb : base + out.length < m.size) (v : BitVec w) :
    Filled m₀ (m.put (base + out.length) v) base (out ++ [v]) := by
  refine ⟨(m.put_size ..).trans h.size, Memory.put_wf h.wf .., fun j hj => ?_, fun k hk => ?_⟩
  · rw [List.length_append, List.length_singleton] at hj
    obtain hj | rfl : j < out.length ∨ j = out.length := by omega
    · rw [Memory.read_put_other m (by omega), List.getElem?_append_left hj, h.window j hj]
    · rw [Memory.read_put_same h.wf hb, List.getElem?_concat_length]
  · rw [List.length_append, List.length_singleton] at hk
    rw [Memory.read_put_other m (by omega), h.outside k (by omega)]

/-- The last element of the window. -/
theorem Filled.read_last {b : BitVec w} (h : Filled m₀ m base (out ++ [b])) : m.read (base + out.length) = some b := by
  rw [h.window _ (by simp), List.getElem?_concat_length]

/-- The last element of the window is written again. -/
theorem Filled.rewrite_last {b : BitVec w} (h : Filled m₀ m base (out ++ [b])) (v : BitVec w) :
    Filled m₀ (m.put (base + out.length) v) base (out ++ [v]) := by
  obtain ⟨hb, -⟩ := Memory.read_eq_some.mp h.read_last
  refine ⟨(m.put_size ..).trans h.size, Memory.put_wf h.wf .., fun j hj => ?_, fun k hk => ?_⟩
  · rw [List.length_append, List.length_singleton] at hj
    obtain hj | rfl : j < out.length ∨ j = out.length := by omega
    · rw [Memory.read_put_other m (by omega), List.getElem?_append_left hj, h.window j (by simp; omega),
        List.getElem?_append_left hj]
    · rw [Memory.read_put_same h.wf hb, List.getElem?_concat_length]
  · rw [List.length_append, List.length_singleton] at hk
    rw [Memory.read_put_other m (by omega), h.outside k (by simpa using hk)]

/-- The last element of the window is written again, then the element after the window. -/
theorem Filled.rewrite_append {b : BitVec w} (h : Filled m₀ m base (out ++ [b])) {k : Nat} (hk : k = base + out.length)
    (hb : k + 1 < m.size) (v v' : BitVec w) :
    Filled m₀ ((m.put k v).put (k + 1) v') base (out ++ [v] ++ [v']) := by
  have hlast : base + (out ++ [v]).length = k + 1 := by simp [hk, Nat.add_assoc]
  have hnext := (hk ▸ h.rewrite_last v).append (by rwa [hlast, Memory.put_size]) v'
  rwa [hlast] at hnext

/-- A window that is the whole buffer. -/
theorem Filled.toList_eq (h : Filled m₀ m 0 out) (hs : m₀.size = out.length) : m.toList = out := by
  refine List.ext_getElem? fun k => ?_
  rw [Memory.getElem?_toList]
  by_cases hk : k < out.length
  · rw [← h.window k hk, Nat.zero_add]
  · rw [List.getElem?_eq_none (Nat.not_lt.mp hk), Memory.read_none (by rw [h.size]; omega)]

end Window

/-! ### `Pack` with one more symbol (R80 to R83, R85) -/

@[simp] theorem byteTop6_join62 (hi : BitVec 6) (lo : BitVec 2) : byteTop6 (join62 hi lo) = hi :=
  BitVec.extractLsb'_append_eq_left

@[simp] theorem byteTop4_join44 (hi lo : BitVec 4) : byteTop4 (join44 hi lo) = hi := BitVec.extractLsb'_append_eq_left

@[simp] theorem byteTop2_join26 (hi : BitVec 2) (lo : BitVec 6) : byteTop2 (join26 hi lo) = hi :=
  BitVec.extractLsb'_append_eq_left

/-- After full groups `Pack` begins again. -/
theorem pack_append {l l' : List Sym6} (h : l.length % 4 = 0) : pack (l ++ l') = pack l ++ pack l' := by
  induction l using pack.induct with
  | case1 => rfl
  | case2 | case3 | case4 => simp at h
  | case5 s0 s1 s2 s3 rest ih =>
    simp only [List.length_cons] at h
    simp [pack, ih (by omega)]

/-- Full groups of `n` elements, and the rest. -/
theorem exists_groups {α : Type} (n : Nat) (l : List α) :
    ∃ g r, l = g ++ r ∧ g.length % n = 0 ∧ r.length = l.length % n := by
  have hdiv := Nat.div_add_mod l.length n
  refine ⟨l.take (n * (l.length / n)), l.drop (n * (l.length / n)), (List.take_append_drop ..).symm, ?_, ?_⟩
  · rw [List.length_take, Nat.min_eq_left (by omega), Nat.mul_mod_right]
  · rw [List.length_drop]
    omega

theorem pack_concat_phase0 {l : List Sym6} (h : l.length % 4 = 0) (x : Sym6) :
    pack (l ++ [x]) = pack l ++ [join62 x 0] := pack_append h

theorem pack_concat_phase1 {l : List Sym6} (h : l.length % 4 = 1) (x : Sym6) :
    ∃ p b, pack l = p ++ [b] ∧ pack (l ++ [x]) = p ++ [setLow2 b (symTop2 x)] ++ [join44 (symLow4 x) 0] := by
  obtain ⟨g, r, rfl, hg, hr⟩ := exists_groups 4 l
  obtain ⟨s0, rfl⟩ := List.length_eq_one_iff.mp (hr.trans h)
  exact ⟨pack g, join62 s0 0, pack_append hg, by simp [pack_append hg, pack, setLow2]⟩

theorem pack_concat_phase2 {l : List Sym6} (h : l.length % 4 = 2) (x : Sym6) :
    ∃ p b, pack l = p ++ [b] ∧ pack (l ++ [x]) = p ++ [setLow4 b (symTop4 x)] ++ [join26 (symLow2 x) 0] := by
  obtain ⟨g, r, rfl, hg, hr⟩ := exists_groups 4 l
  obtain ⟨s0, s1, rfl⟩ := List.length_eq_two.mp (hr.trans h)
  exact ⟨pack g ++ [join62 s0 (symTop2 s1)], join44 (symLow4 s1) 0, by simp [pack_append hg, pack],
    by simp [pack_append hg, pack, setLow4]⟩

theorem pack_concat_phase3 {l : List Sym6} (h : l.length % 4 = 3) (x : Sym6) :
    ∃ p b, pack l = p ++ [b] ∧ pack (l ++ [x]) = p ++ [setLow6 b x] := by
  obtain ⟨g, r, rfl, hg, hr⟩ := exists_groups 4 l
  obtain ⟨s0, s1, s2, rfl⟩ := List.length_eq_three.mp (hr.trans h)
  exact ⟨pack g ++ [join62 s0 (symTop2 s1), join44 (symLow4 s1) (symTop4 s2)], join26 (symLow2 s2) 0,
    by simp [pack_append hg, pack], by simp [pack_append hg, pack, setLow6]⟩

/-! ### `Unpack` with one more byte (R100 to R102, R104) -/

/-- After full groups `Unpack` begins again. -/
theorem unpack_append {l l' : List Byte} (h : l.length % 3 = 0) : unpack (l ++ l') = unpack l ++ unpack l' := by
  induction l using unpack.induct with
  | case1 => rfl
  | case2 | case3 => simp at h
  | case4 b0 b1 b2 rest ih =>
    simp only [List.length_cons] at h
    simp [unpack, ih (by omega)]

theorem unpack_concat_phase0 {l : List Byte} (h : l.length % 3 = 0) (b : Byte) :
    unpack (l ++ [b]) = unpack l ++ [byteTop6 b] := unpack_append h

theorem unpack_concat_phase1 {l : List Byte} (h : l.length % 3 = 0) (p b : Byte) :
    unpack (l ++ [p] ++ [b]) = unpack (l ++ [p]) ++ [sym24 (byteLow2 p) (byteTop4 b)] := by
  simp [unpack_append h, unpack]

theorem unpack_concat_phase2 {l : List Byte} (h : l.length % 3 = 1) (p b : Byte) :
    unpack (l ++ [p] ++ [b]) = unpack (l ++ [p]) ++ [sym42 (byteLow4 p) (byteTop2 b)] ++ [byteLow6 b] := by
  obtain ⟨g, r, rfl, hg, hr⟩ := exists_groups 3 l
  obtain ⟨b0, rfl⟩ := List.length_eq_one_iff.mp (hr.trans h)
  simp [unpack_append hg, unpack]

/-! ### What the steps of a conversion have read -/

/-- The symbols that an encode has read. -/
def symbolsRead (s : State) : List Sym6 := (s.src.text.slice s.run.off s.idx).map (xlateIn s.tables)

/-- The bytes that a decode has read. -/
def bytesRead (s : State) : List Byte := s.src.bytes.slice s.run.off s.idx

@[simp] theorem length_symbolsRead (s : State) : (symbolsRead s).length = s.idx := by simp [symbolsRead]

@[simp] theorem length_bytesRead (s : State) : (bytesRead s).length = s.idx := by simp [bytesRead]

theorem StepsFrame.tables {s t : State} (h : StepsFrame s t) : t.tables = s.tables := by
  obtain ⟨d, i, o, rfl, -⟩ := h
  rfl

theorem StepEffect.symbolsRead_eq {n : Nat} {s t : State} (h : StepEffect n s t) {c : CodePoint}
    (hc : s.src.text.read (s.run.off + s.idx) = some c) :
    symbolsRead t = symbolsRead s ++ [xlateIn s.tables c] := by
  obtain ⟨-, rfl⟩ := Memory.read_eq_some.mp hc
  simp [symbolsRead, h.frame.src, h.frame.run, h.frame.tables, h.idx, Memory.slice_succ]

theorem StepEffect.bytesRead_eq {n : Nat} {s t : State} (h : StepEffect n s t) {b : Byte}
    (hb : s.src.bytes.read (s.run.off + s.idx) = some b) : bytesRead t = bytesRead s ++ [b] := by
  obtain ⟨-, rfl⟩ := Memory.read_eq_some.mp hb
  simp [bytesRead, h.frame.src, h.frame.run, h.idx, Memory.slice_succ]

/-- Past the first byte the bytes read end in the previous byte, which is at the element before (R101, R102). -/
theorem bytesRead_eq_concat {s : State} (hi : 0 < s.idx) {k : Nat} {p : Byte} (hk : s.run.off + s.idx = k + 1)
    (hp : s.src.bytes.read k = some p) : ∃ l : List Byte, bytesRead s = l ++ [p] ∧ l.length + 1 = s.idx := by
  obtain ⟨-, rfl⟩ := Memory.read_eq_some.mp hp
  obtain ⟨j, hj⟩ := Nat.exists_eq_add_one.mpr hi
  obtain rfl : k = s.run.off + j := by omega
  exact ⟨s.src.bytes.slice s.run.off j, by rw [bytesRead, hj, Memory.slice_succ], by simp [hj]⟩

/-! ### An encode in progress -/

/-- An encode that began with the destination `d`: its window is `Pack` of the symbols read, whatever it held. -/
structure EncodeProgress (d : Buffer) (s : State) : Prop where
  outpos : s.outpos = outposAt .encode s.idx
  bytes : Filled d.bytes s.dest.bytes s.run.dbase (pack (symbolsRead s))
  text : s.dest.text = d.text

section EncodeStep

variable {d : Buffer} {s t : State}

/-- The window ends as far past the first byte of the group in progress as the phase says. -/
theorem EncodeProgress.window_end (h : EncodeProgress d s) :
    outAddr s + s.idx % 4 = s.run.dbase + (pack (symbolsRead s)).length := by
  simp only [outAddr, h.outpos, outposAt, length_pack, length_symbolsRead, byteCount]
  omega

/-- In the later phases the byte to update is the last of the window. -/
theorem EncodeProgress.last_byte (h : EncodeProgress d s) {p : List Byte} {b b' : Byte} {i : Nat}
    (hp : pack (symbolsRead s) = p ++ [b]) (hi : s.idx % 4 = i + 1) (hb : s.dest.bytes.read (outAddr s + i) = some b') :
    Filled d.bytes s.dest.bytes s.run.dbase (p ++ [b]) ∧ outAddr s + i = s.run.dbase + p.length ∧ b' = b := by
  have hend := h.window_end
  have hf := h.bytes
  rw [hp] at hf hend
  rw [List.length_append, List.length_singleton] at hend
  have haddr : outAddr s + i = s.run.dbase + p.length := by omega
  exact ⟨hf, haddr, Option.some.inj (hb.symm.trans (haddr ▸ hf.read_last))⟩

theorem execEncP0_progress (hp : EncodeProgress d s) (hi : s.idx % 4 = 0) (h : execEncP0 s = .next t) :
    Filled d.bytes t.dest.bytes s.run.dbase (pack (symbolsRead t)) := by
  have heffect := execEncP0_effect h
  obtain ⟨c, hc, hout, rfl⟩ := execEncP0_eq_next.mp h
  have haddr : outAddr s = s.run.dbase + (pack (symbolsRead s)).length := by rw [← hp.window_end, hi, Nat.add_zero]
  rw [heffect.symbolsRead_eq hc, pack_concat_phase0 (by simpa using hi)]
  simpa [haddr] using hp.bytes.append (haddr ▸ hout) _

theorem execEncP1_progress (hp : EncodeProgress d s) (hi : s.idx % 4 = 1) (h : execEncP1 s = .next t) :
    Filled d.bytes t.dest.bytes s.run.dbase (pack (symbolsRead t)) := by
  have heffect := execEncP1_effect h
  obtain ⟨c, b', hc, hb, hout, rfl⟩ := execEncP1_eq_next.mp h
  obtain ⟨p, b, hpack, hnext⟩ := pack_concat_phase1 (l := symbolsRead s) (by simpa using hi) (xlateIn s.tables c)
  obtain ⟨hf, haddr, rfl⟩ := hp.last_byte (i := 0) hpack hi hb
  rw [heffect.symbolsRead_eq hc, hnext]
  simpa using hf.rewrite_append haddr hout _ _

theorem execEncP2_progress (hp : EncodeProgress d s) (hi : s.idx % 4 = 2) (h : execEncP2 s = .next t) :
    Filled d.bytes t.dest.bytes s.run.dbase (pack (symbolsRead t)) := by
  have heffect := execEncP2_effect h
  obtain ⟨c, b', hc, hb, hout, rfl⟩ := execEncP2_eq_next.mp h
  obtain ⟨p, b, hpack, hnext⟩ := pack_concat_phase2 (l := symbolsRead s) (by simpa using hi) (xlateIn s.tables c)
  obtain ⟨hf, haddr, rfl⟩ := hp.last_byte hpack hi hb
  rw [heffect.symbolsRead_eq hc, hnext]
  simpa using hf.rewrite_append haddr hout _ _

theorem execEncP3_progress (hp : EncodeProgress d s) (hi : s.idx % 4 = 3) (h : execEncP3 s = .next t) :
    Filled d.bytes t.dest.bytes s.run.dbase (pack (symbolsRead t)) := by
  have heffect := execEncP3_effect h
  obtain ⟨c, b', hc, hb, rfl⟩ := execEncP3_eq_next.mp h
  obtain ⟨p, b, hpack, hnext⟩ := pack_concat_phase3 (l := symbolsRead s) (by simpa using hi) (xlateIn s.tables c)
  obtain ⟨hf, haddr, rfl⟩ := hp.last_byte hpack hi hb
  rw [heffect.symbolsRead_eq hc, hnext]
  simpa [haddr] using hf.rewrite_last _

theorem encStep_text (h : encStep s = .next t) : t.dest.text = s.dest.text := by
  unfold encStep at h
  split_ifs at h
  · obtain ⟨c, -, -, rfl⟩ := execEncP0_eq_next.mp h
    simp
  · obtain ⟨c, b, -, -, -, rfl⟩ := execEncP1_eq_next.mp h
    simp
  · obtain ⟨c, b, -, -, -, rfl⟩ := execEncP2_eq_next.mp h
    simp
  · obtain ⟨c, b, -, -, rfl⟩ := execEncP3_eq_next.mp h
    simp

/-- Every step of an encode extends its window by the symbol it reads. -/
theorem encStep_progress (hp : EncodeProgress d s) (h : encStep s = .next t) : EncodeProgress d t := by
  obtain ⟨n, heffect, hout⟩ := conversionStep_effect (dir := .encode) h
  refine ⟨by rw [heffect.outpos, heffect.idx, hout, hp.outpos], ?_, (encStep_text h).trans hp.text⟩
  rw [heffect.frame.run]
  unfold encStep at h
  split_ifs at h with hi0 hi1 hi2
  · exact execEncP0_progress hp hi0 h
  · exact execEncP1_progress hp hi1 h
  · exact execEncP2_progress hp hi2 h
  · exact execEncP3_progress hp (by omega) h

end EncodeStep

/-! ### A decode in progress -/

/-- A decode that began with the destination `d`: its window is the translation of `Unpack` of the bytes read. -/
structure DecodeProgress (d : Buffer) (s : State) : Prop where
  outpos : s.outpos = outposAt .decode s.idx
  text : Filled d.text s.dest.text s.run.dbase ((unpack (bytesRead s)).map (xlateOut s.tables))
  bytes : s.dest.bytes = d.bytes

section DecodeStep

variable {d : Buffer} {s t : State}

/-- The window ends at the output cursor. -/
theorem DecodeProgress.window_end (h : DecodeProgress d s) :
    outAddr s = s.run.dbase + ((unpack (bytesRead s)).map (xlateOut s.tables)).length := by
  simp only [outAddr, h.outpos, outposAt, List.length_map, length_unpack, length_bytesRead, charCount]
  omega

theorem execDecP0_progress (hp : DecodeProgress d s) (hi : s.idx % 3 = 0) (h : execDecP0 s = .next t) :
    Filled d.text t.dest.text s.run.dbase ((unpack (bytesRead t)).map (xlateOut s.tables)) := by
  have heffect := execDecP0_effect h
  obtain ⟨b, hb, hout, rfl⟩ := execDecP0_eq_next.mp h
  rw [heffect.bytesRead_eq hb, unpack_concat_phase0 (by simpa using hi)]
  simpa [hp.window_end] using hp.text.append (hp.window_end ▸ hout) _

theorem execDecP1_progress (hp : DecodeProgress d s) (hi : s.idx % 3 = 1) (h : execDecP1 s = .next t) :
    Filled d.text t.dest.text s.run.dbase ((unpack (bytesRead t)).map (xlateOut s.tables)) := by
  have heffect := execDecP1_effect h
  obtain ⟨b, k, p, hb, hk, hprev, hout, rfl⟩ := execDecP1_eq_next.mp h
  obtain ⟨l, hl, hlen⟩ := bytesRead_eq_concat (by omega) hk hprev
  rw [heffect.bytesRead_eq hb, hl, unpack_concat_phase1 (by omega), ← hl]
  simpa [hp.window_end] using hp.text.append (hp.window_end ▸ hout) _

theorem execDecP2_progress (hp : DecodeProgress d s) (hi : s.idx % 3 = 2) (h : execDecP2 s = .next t) :
    Filled d.text t.dest.text s.run.dbase ((unpack (bytesRead t)).map (xlateOut s.tables)) := by
  have heffect := execDecP2_effect h
  obtain ⟨b, k, p, hb, hk, hprev, hout, rfl⟩ := execDecP2_eq_next.mp h
  obtain ⟨l, hl, hlen⟩ := bytesRead_eq_concat (by omega) hk hprev
  rw [heffect.bytesRead_eq hb, hl, unpack_concat_phase2 (by omega), ← hl]
  have hfirst := hp.text.append (by rw [← hp.window_end]; omega)
    (xlateOut s.tables (sym42 (byteLow4 p) (byteTop2 b)))
  have hsecond := hfirst.append (by simpa [hp.window_end, Nat.add_assoc] using hout)
    (xlateOut s.tables (byteLow6 b))
  simpa [hp.window_end, Nat.add_assoc] using hsecond

theorem decStep_bytes (h : decStep s = .next t) : t.dest.bytes = s.dest.bytes := by
  unfold decStep at h
  split_ifs at h
  · obtain ⟨b, -, -, rfl⟩ := execDecP0_eq_next.mp h
    simp
  · obtain ⟨b, k, p, -, -, -, -, rfl⟩ := execDecP1_eq_next.mp h
    simp
  · obtain ⟨b, k, p, -, -, -, -, rfl⟩ := execDecP2_eq_next.mp h
    simp

/-- Every step of a decode extends its window by the symbols that the byte it reads completes. -/
theorem decStep_progress (hp : DecodeProgress d s) (h : decStep s = .next t) : DecodeProgress d t := by
  obtain ⟨n, heffect, hout⟩ := conversionStep_effect (dir := .decode) h
  refine ⟨by rw [heffect.outpos, heffect.idx, hout, hp.outpos], ?_, (decStep_bytes h).trans hp.bytes⟩
  rw [heffect.frame.run, heffect.frame.tables]
  unfold decStep at h
  split_ifs at h with hi0 hi1
  · exact execDecP0_progress hp hi0 h
  · exact execDecP1_progress hp hi1 h
  · exact execDecP2_progress hp (by omega) h

end DecodeStep

/-! ### Whole conversions -/

/-- What every step keeps, all the steps keep. -/
theorem repeatStep_keeps {P : State → Prop} {g : State → Outcome}
    (hstep : ∀ {s t : State}, P s → g s = .next t → P t) :
    ∀ {n : Nat} {s t : State}, P s → repeatStep g n s = .next t → P t
  | 0, _, _, hs, h => Host.Outcome.next.inj h ▸ hs
  | _ + 1, _, _, hs, h => by
    obtain ⟨u, hu, ht⟩ := andThen_eq_next.mp h
    exact repeatStep_keeps hstep (hstep hs hu) ht

theorem repeatStep_idx {dir : Dir} :
    ∀ {n : Nat} {s t : State}, repeatStep (conversionStep dir) n s = .next t → t.idx = s.idx + n
  | 0, _, _, h => Host.Outcome.next.inj h ▸ rfl
  | n + 1, s, t, h => by
    obtain ⟨u, hu, ht⟩ := andThen_eq_next.mp h
    obtain ⟨_, heffect, -⟩ := conversionStep_effect hu
    rw [repeatStep_idx ht, heffect.idx, Nat.add_assoc, Nat.add_comm 1]

/-- The state at the end of a conversion that has made `d` of its destination. -/
def conversionEnd (f : OpForm) (s : State) (d : Buffer) : State :=
  { deliver ((beginOp f s).progress d (effCnt f.whole s) (outposAt f.dir (effCnt f.whole s))) with
    result := needOf f.dir (effCnt f.whole s), status := 0 }

/-- A conversion that begins ends, and what its steps keep still holds when all of them are done. -/
theorem convert_conversionEnd {f : OpForm} {s : State} (h : Begins f s) {P : State → Prop}
    (hbegin : P (beginOp f s)) (hstep : ∀ {t u : State}, P t → conversionStep f.dir t = .next u → P u)
    (hout : ∀ {t : State}, P t → t.outpos = outposAt f.dir t.idx) :
    ∃ d, convert f (conversionStep f.dir) s = .next (conversionEnd f s d) ∧
      P ((beginOp f s).progress d (effCnt f.whole s) (outposAt f.dir (effCnt f.whole s))) := by
  obtain ⟨u, hu, hend⟩ := convert_ends h
  have hkept : P u := repeatStep_keeps hstep hbegin hu
  have hidx : u.idx = effCnt f.whole s := by simpa using repeatStep_idx hu
  have hpos : u.outpos = outposAt f.dir (effCnt f.whole s) := hidx ▸ hout hkept
  obtain ⟨d, i, o, rfl, -⟩ := repeatStep_frame hu
  obtain rfl : i = effCnt f.whole s := hidx
  obtain rfl : o = outposAt f.dir (effCnt f.whole s) := hpos
  exact ⟨d, hend, hkept⟩

section Encode

variable {into whole : Bool} {s : State}

@[simp] theorem length_encodedBytes : (encodedBytes whole s).length = (6 * effCnt whole s + 7) / 8 := by
  simp [encodedBytes, sourceText, length_pack, byteCount]

/-- What an encode that begins leaves in its destination, which was `(beginOp ..).dest` when it began. -/
theorem encode_conversionEnd (hwf : (beginOp ⟨.encode, into, whole⟩ s).dest.bytes.wf = true)
    (h : Begins ⟨.encode, into, whole⟩ s) :
    ∃ d, convert ⟨.encode, into, whole⟩ encStep s = .next (conversionEnd ⟨.encode, into, whole⟩ s d) ∧
      Filled (beginOp ⟨.encode, into, whole⟩ s).dest.bytes d.bytes (destBase into s) (encodedBytes whole s) ∧
      d.text = (beginOp ⟨.encode, into, whole⟩ s).dest.text := by
  obtain ⟨d, hend, -, hbytes, htext⟩ := convert_conversionEnd h
    (P := EncodeProgress (beginOp ⟨.encode, into, whole⟩ s).dest) ⟨by simp [outposAt], Filled.nil hwf _, rfl⟩
    encStep_progress EncodeProgress.outpos
  rw [progress_dest] at hbytes htext
  exact ⟨d, hend, hbytes, htext⟩

end Encode

section Decode

variable {into whole : Bool} {s : State}

@[simp] theorem length_decodedText : (decodedText whole s).length = (8 * effCnt whole s) / 6 := by
  simp [decodedText, sourceBytes, length_unpack, charCount]

/-- What a decode that begins leaves in its destination, which was `(beginOp ..).dest` when it began. -/
theorem decode_conversionEnd (hwf : (beginOp ⟨.decode, into, whole⟩ s).dest.text.wf = true)
    (h : Begins ⟨.decode, into, whole⟩ s) :
    ∃ d, convert ⟨.decode, into, whole⟩ decStep s = .next (conversionEnd ⟨.decode, into, whole⟩ s d) ∧
      Filled (beginOp ⟨.decode, into, whole⟩ s).dest.text d.text (destBase into s) (decodedText whole s) ∧
      d.bytes = (beginOp ⟨.decode, into, whole⟩ s).dest.bytes := by
  obtain ⟨d, hend, -, htext, hbytes⟩ := convert_conversionEnd h
    (P := DecodeProgress (beginOp ⟨.decode, into, whole⟩ s).dest) ⟨by simp [outposAt], Filled.nil hwf _, rfl⟩
    decStep_progress DecodeProgress.outpos
  rw [progress_dest] at hbytes htext
  exact ⟨d, hend, htext, hbytes⟩

end Decode

/-- An allocating form needs no buffer but the source, and its destination always fits (R36). -/
theorem allocating_begins {dir : Dir} {whole : Bool} {s : State} (hp : LaunchPremises ⟨dir, false, whole⟩ s)
    (hsrc : srcPresent s = true) (hfits : SourceFits ⟨dir, false, whole⟩ s) : Begins ⟨dir, false, whole⟩ s :=
  ⟨hp, ⟨hsrc, nofun⟩, hfits, nofun⟩

/-- Settles O27: the window is the whole of the fresh destination. -/
theorem encodeResult : Obligations.EncodeResult := by
  intro whole s hp hsrc hfits
  obtain ⟨d, hend, hbytes, htext⟩ := encode_conversionEnd (into := false)
    (Memory.zeros_wf (needOf .encode (effCnt whole s))) (allocating_begins hp hsrc hfits)
  have hsize : d.bytes.size = (6 * effCnt whole s + 7) / 8 := hbytes.size
  exact ⟨_, d, hend, hbytes.toList_eq length_encodedBytes.symm, hsize, congrArg Memory.size htext, hsize.symm, rfl,
    rfl, rfl⟩

/-- Settles O28: the window is the whole of the fresh destination. -/
theorem decodeResult : Obligations.DecodeResult := by
  intro whole s hp hsrc hfits
  obtain ⟨d, hend, htext, hbytes⟩ := decode_conversionEnd (into := false)
    (Memory.zeros_wf (needOf .decode (effCnt whole s))) (allocating_begins hp hsrc hfits)
  have hsize : d.text.size = (8 * effCnt whole s) / 6 := htext.size
  have hcursor : outposAt .decode (effCnt whole s) = needOf .decode (effCnt whole s) := by
    simp only [outposAt, needOf, charCount]
    omega
  exact ⟨_, d, hend, htext.toList_eq length_decodedText.symm, hsize, congrArg Memory.size hbytes, hsize.symm, rfl,
    hcursor, rfl⟩

/-- Settles O29: the window begins at `DST_OFF` of the host's destination. -/
theorem encodeIntoResult : Obligations.EncodeIntoResult := by
  intro whole s hwf hp hpres hfits hdfits
  obtain ⟨d, hend, hbytes, htext⟩ := encode_conversionEnd (into := true) hwf ⟨hp, hpres, hfits, hdfits⟩
  exact ⟨_, hend, fun j hj => hbytes.window j (hj.trans_eq length_encodedBytes.symm),
    fun k hk => hbytes.outside k (by rwa [length_encodedBytes]), htext, rfl, rfl⟩

/-- Settles O30: the window begins at `DST_OFF` of the host's destination. -/
theorem decodeIntoResult : Obligations.DecodeIntoResult := by
  intro whole s hwf hp hpres hfits hdfits
  obtain ⟨d, hend, htext, hbytes⟩ := decode_conversionEnd (into := true) hwf ⟨hp, hpres, hfits, hdfits⟩
  exact ⟨_, hend, fun j hj => htext.window j (hj.trans_eq length_decodedText.symm),
    fun k hk => htext.outside k (by rwa [length_decodedText]), hbytes, rfl, rfl⟩

end Sys2Proof.Machine
end

section
/-! The two formats (`30_encoding.md` rules R50, R51, R55): the fields of a command word, and that the decoder and the
encoder are inverse to each other. -/

namespace Sys2Proof.Machine

/-! ### The fields of a command word (R50) -/

@[simp] theorem opField_cmdWord (op : BitVec 3) (whole : Bool) : opField (cmdWord op whole) = op := by
  revert op whole
  decide

@[simp] theorem wholeField_cmdWord (op : BitVec 3) (whole : Bool) : wholeField (cmdWord op whole) = whole := by
  revert op whole
  decide

@[simp] theorem reservedField_cmdWord (op : BitVec 3) (whole : Bool) : reservedField (cmdWord op whole) = 0#4 := by
  revert op whole
  decide

/-- A command word is its three fields put together. -/
theorem append_fields (w : Byte) : reservedField w ++ (BitVec.ofBool (wholeField w) ++ opField w) = w := by
  ext i hi
  simp only [BitVec.getElem_append, reservedField, wholeField, opField]
  interval_cases i <;> simp

theorem cmdWord_fields {w : Byte} (h : reservedField w = 0) : cmdWord (opField w) (wholeField w) = w := by
  have hfields := append_fields w
  rwa [h] at hfields

theorem reservedField_eq_zero_iff {w : Byte} : reservedField w = 0 ↔ w.toNat ≤ 0x0F := by
  have := w.isLt
  rw [← BitVec.toNat_inj]
  simp only [reservedField, BitVec.extractLsb'_toNat, Nat.shiftRight_eq_div_pow, BitVec.ofNat_eq_ofNat,
    BitVec.toNat_ofNat]
  omega

/-- The row mask `0xF7` of R51 leaves out the `whole` bit and no other. -/
theorem fields_of_masked {w : Byte} {op : BitVec 3} (h : w &&& 0xF7 = cmdWord op false) :
    reservedField w = 0 ∧ opField w = op := by
  have hreserved : reservedField (w &&& 0xF7) = reservedField w :=
    BitVec.extractLsb'_and.trans BitVec.and_allOnes
  have hop : opField (w &&& 0xF7) = opField w :=
    BitVec.extractLsb'_and.trans BitVec.and_allOnes
  rw [← hreserved, ← hop, h]
  exact ⟨reservedField_cmdWord op false, opField_cmdWord op false⟩

/-! ### Decoding and encoding a command word (R51, R57) -/

/-- A command word decodes to the operation that its fields select, when its reserved bits are zero and the operation has
the form that its `whole` bit asks for. -/
theorem decode_cmd8_eq_ok_iff {w : Byte} {i : Instr} :
    decode (.cmd8 w) = .ok i ↔
      reservedField w = 0 ∧ i = opInstr (opField w) (wholeField w) ∧ i.WellFormed = true := by
  refine ⟨fun h => ?_, fun ⟨hr, hi, hwf⟩ => ?_⟩
  · obtain rfl := decode_cmd8_eq_ok h
    simp only [decode, decodeCmd] at h
    split_ifs at h with hr hwf
    exact ⟨hr, rfl, hwf⟩
  · simp only [decode, decodeCmd, hr, ← hi, hwf, if_true]

/-- The word of a well-formed operation decodes to that operation. -/
theorem decode_cmdWord {op : BitVec 3} {whole : Bool} {i : Instr} (hi : opInstr op whole = i)
    (hwf : i.WellFormed = true) : decode (.cmd8 (cmdWord op whole)) = .ok i := by
  refine decode_cmd8_eq_ok_iff.mpr ⟨reservedField_cmdWord op whole, ?_, hwf⟩
  rw [opField_cmdWord, wholeField_cmdWord, hi]

theorem encode_opInstr (op : BitVec 3) (whole : Bool) : encode (opInstr op whole) = .cmd8 (cmdWord op whole) := by
  revert op whole
  decide

theorem encode_of_decodeSelector {sel : BitVec 3} {i : Instr} (h : decodeSelector sel = .ok i) :
    encode i = .step3 sel ∧ i.WellFormed = true := by
  unfold decodeSelector at h
  split_ifs at h <;> cases h <;> subst sel <;> exact ⟨rfl, rfl⟩

/-- Settles O6: an operation by the fields of its word, a step by its selector. -/
theorem decodeEncodeAgree : Obligations.DecodeEncodeAgree := by
  intro i hwf
  cases i with
  | encode whole | decode whole | getByteCount whole | getCharCount whole | getMaxByteCount whole
  | getMaxCharCount whole | encodeInto whole | decodeInto whole => exact decode_cmdWord rfl hwf
  | encP0 | encP1 | encP2 | encP3 | decP0 | decP1 | decP2 => rfl

/-- Settles O7: a command word that decodes has no reserved bit, so its two other fields make it up. -/
theorem encodeDecodeAgree : Obligations.EncodeDecodeAgree := by
  intro c i h
  cases c with
  | cmd8 w =>
    obtain ⟨hr, rfl, hwf⟩ := decode_cmd8_eq_ok_iff.mp h
    exact ⟨by rw [encode_opInstr, cmdWord_fields hr], hwf⟩
  | step3 sel => exact encode_of_decodeSelector h

/-- Settles O4: the words are those of well-formed instructions, but for the selector that never occurs. -/
theorem specWordsDecode : Obligations.SpecWordsDecode :=
  ⟨decodeEncodeAgree (.encode true) rfl, decodeEncodeAgree (.decode false) rfl,
    decodeEncodeAgree (.getByteCount true) rfl, decodeEncodeAgree (.getMaxCharCount false) rfl,
    decodeEncodeAgree (.encodeInto true) rfl, decodeEncodeAgree .encP2 rfl, decodeEncodeAgree .decP1 rfl, rfl⟩

/-! ### The rows of the command table (R51) -/

/-- A row whose mask leaves the `whole` bit free. -/
theorem decode_of_masked {w : Byte} {op : BitVec 3} (h : w &&& 0xF7 = cmdWord op false)
    (hwf : (opInstr op (w.getLsbD 3)).WellFormed = true) : decode (.cmd8 w) = .ok (opInstr op (w.getLsbD 3)) := by
  obtain ⟨hr, hop⟩ := fields_of_masked h
  exact decode_cmd8_eq_ok_iff.mpr ⟨hr, by rw [hop, wholeField], hwf⟩

/-- A row whose mask is the whole byte. -/
theorem eq_of_masked_all {w v : Byte} (h : w &&& 0xFF = v) : w = v :=
  BitVec.and_allOnes.symm.trans h

/-- The two words that R57 reserves are the ones of the Max queries with `whole = 1`. -/
theorem wellFormed_opInstr_iff (op : BitVec 3) (whole : Bool) :
    (opInstr op whole).WellFormed = true ↔ cmdWord op whole ≠ 0x0C ∧ cmdWord op whole ≠ 0x0D := by
  revert op whole
  decide

theorem exists_decode_cmd8_iff (w : Byte) :
    (∃ i, decode (.cmd8 w) = .ok i) ↔ w.toNat ≤ 0x0F ∧ w ≠ 0x0C ∧ w ≠ 0x0D := by
  rw [← reservedField_eq_zero_iff]
  constructor
  · rintro ⟨i, h⟩
    obtain ⟨hr, rfl, hwf⟩ := decode_cmd8_eq_ok_iff.mp h
    rw [wellFormed_opInstr_iff, cmdWord_fields hr] at hwf
    exact ⟨hr, hwf⟩
  · rintro ⟨hr, hne⟩
    rw [← cmdWord_fields hr, ← wellFormed_opInstr_iff] at hne
    exact ⟨_, decode_cmd8_eq_ok_iff.mpr ⟨hr, rfl, hne⟩⟩

/-- Settles O5: six rows with a free `whole` bit, the two rows of the Max queries, and the words that no row takes. -/
theorem commandWordSelectsRow : Obligations.CommandWordSelectsRow := fun w =>
  ⟨fun h => decode_of_masked (op := 0) h rfl, fun h => decode_of_masked (op := 1) h rfl,
    fun h => decode_of_masked (op := 2) h rfl, fun h => decode_of_masked (op := 3) h rfl,
    fun h => eq_of_masked_all h ▸ rfl, fun h => eq_of_masked_all h ▸ rfl,
    fun h => decode_of_masked (op := 6) h rfl, fun h => decode_of_masked (op := 7) h rfl, exists_decode_cmd8_iff w⟩

end Sys2Proof.Machine
end

section
/-! The six operations with a source buffer: the refusals and the first error of a launch, and a short form beside its
sub-range form (`30_encoding.md` rules R54, R57, R60). -/

namespace Sys2Proof.Machine

/-! ### The premises and the first check of a launch (R141, R163) -/

section Premises

variable {f : OpForm} {s : State}

theorem premiseFailure_of_busy (hb : busy s = true) : premiseFailure f s = some .launchWhileBusy :=
  if_pos hb

theorem premiseFailure_of_reservedBits (hi : Idle s) (hl : ¬ BufctlLegal s) :
    premiseFailure f s = some .reservedBufctl :=
  (if_neg (Bool.eq_false_iff.mp hi)).trans (if_pos hl)

theorem premiseFailure_of_falseLength (hi : Idle s) (hl : BufctlLegal s) (hlen : ¬ LengthsTrue f s) :
    premiseFailure f s = some .falseLength := by
  rw [← lengthsTrue_iff] at hlen
  simp [premiseFailure, hi, hl, hlen]

theorem premiseFailure_of_overlap (hi : Idle s) (hl : BufctlLegal s) (hlen : LengthsTrue f s)
    (hd : ¬ BuffersDisjoint f s) : premiseFailure f s = some .overlappingBuffers := by
  rw [← lengthsTrue_iff] at hlen
  rw [← disjoint_iff] at hd
  simp [premiseFailure, hi, hl, hlen, hd]

/-- An absent buffer is found before any range is looked at (R146). -/
theorem checkFailure_of_absent (h : srcPresent s = false ∨ f.into = true ∧ dstPresent s = false) :
    checkFailure f s = some .invalidArgument := by
  unfold checkFailure
  obtain hsrc | ⟨hinto, hdst⟩ := h
  · simp [hsrc]
  · simp [hinto, hdst]

end Premises

/-! ### An operation with a source buffer is a conversion or a query -/

theorem withWhole_whole {i : Instr} {f : OpForm} (h : sourceForm i = some f) : withWhole f.whole i = i := by
  cases i <;> cases h <;> rfl

/-- The meaning of both forms of such an operation. -/
theorem exec_withWhole {i : Instr} {f : OpForm} (h : sourceForm i = some f) :
    (∀ whole s, exec (withWhole whole i) s = convert ⟨f.dir, f.into, whole⟩ (conversionStep f.dir) s) ∨
      (∀ whole s, exec (withWhole whole i) s = query ⟨f.dir, f.into, whole⟩ s) := by
  cases i with
  | encode _ | decode _ | encodeInto _ | decodeInto _ => cases h; exact .inl fun _ _ => rfl
  | getByteCount _ | getCharCount _ => cases h; exact .inr fun _ _ => rfl
  | _ => cases h

theorem exec_of_sourceForm {i : Instr} {f : OpForm} (h : sourceForm i = some f) (s : State) :
    exec i s = convert f (conversionStep f.dir) s ∨ exec i s = query f s := by
  rw [← withWhole_whole h]
  exact (exec_withWhole h).imp (· f.whole s) (· f.whole s)

/-- A false premise refuses the launch. -/
theorem exec_of_premiseFailure {i : Instr} {f : OpForm} {s : State} {r : Refusal} (h : sourceForm i = some f)
    (hr : premiseFailure f s = some r) : exec i s = .refused r := by
  obtain he | he := exec_of_sourceForm h s
  · rw [he, convert, hr]
  · rw [he, query, hr]

/-- A failed check raises its error. -/
theorem exec_of_checkFailure {i : Instr} {f : OpForm} {s : State} {e : ArgError} (h : sourceForm i = some f)
    (hp : LaunchPremises f s) (he : checkFailure f s = some e) : exec i s = raise e s := by
  have hnone := premiseFailure_eq_none.mpr hp
  obtain hx | hx := exec_of_sourceForm h s
  · rw [hx, convert, hnone, he]
  · rw [hx, query, hnone, he]

/-- Settles O24: the presence checks come first. -/
theorem invalidArgumentRaised : Obligations.InvalidArgumentRaised := fun _ _ _ hf hp habsent =>
  exec_of_checkFailure hf hp (checkFailure_of_absent habsent)

/-- Settles O26: the first false premise refuses the launch, whichever of the operations it is. -/
theorem falsePremiseRefused : Obligations.FalsePremiseRefused := fun _ _ _ hf =>
  ⟨fun hb => exec_of_premiseFailure hf (premiseFailure_of_busy hb),
    fun hi hl => exec_of_premiseFailure hf (premiseFailure_of_reservedBits hi hl),
    fun hi hl hlen => exec_of_premiseFailure hf (premiseFailure_of_falseLength hi hl hlen),
    fun hi hl hlen hd => exec_of_premiseFailure hf (premiseFailure_of_overlap hi hl hlen hd)⟩

/-! ### A short form and its sub-range form (R53, R60) -/

/-- The operand registers of the sub-range form that a short form stands for. -/
def subrangeOfWhole (s : State) : State := { s with srcOff := 0, srcCnt := s.srcLen }

@[simp] theorem mapNext_next (g : State → State) (s : State) : mapNext g (.next s) = .next (g s) := rfl

@[simp] theorem mapNext_andThen (g : State → State) (o : Outcome) (k : State → Outcome) :
    mapNext g (andThen o k) = andThen o fun s => mapNext g (k s) := by
  cases o <;> rfl

@[simp] theorem andThen_mapNext (g : State → State) (o : Outcome) (k : State → Outcome) :
    andThen (mapNext g o) k = andThen o fun s => k (g s) := by
  cases o <;> rfl

/-! What the shared operations of the steps do with the two registers set. -/

section Shared

variable (s : State) (k : Nat)

@[simp] theorem mapNext_withSrcText (g : State → State) (c : CodePoint → Outcome) :
    mapNext g (withSrcText s k c) = withSrcText s k fun x => mapNext g (c x) := by
  unfold withSrcText
  cases s.src.text.read k <;> rfl

@[simp] theorem mapNext_withSrcByte (g : State → State) (c : Byte → Outcome) :
    mapNext g (withSrcByte s k c) = withSrcByte s k fun x => mapNext g (c x) := by
  unfold withSrcByte
  cases s.src.bytes.read k <;> rfl

@[simp] theorem mapNext_withPrevByte (g : State → State) (c : Byte → Outcome) :
    mapNext g (withPrevByte s k c) = withPrevByte s k fun x => mapNext g (c x) := by
  cases k with
  | zero => rfl
  | succ k => exact mapNext_withSrcByte s k g c

@[simp] theorem mapNext_withDestByte (g : State → State) (c : Byte → Outcome) :
    mapNext g (withDestByte s k c) = withDestByte s k fun x => mapNext g (c x) := by
  unfold withDestByte
  cases s.dest.bytes.read k <;> rfl

@[simp] theorem subrangeOfWhole_run : (subrangeOfWhole s).run = s.run := rfl
@[simp] theorem subrangeOfWhole_idx : (subrangeOfWhole s).idx = s.idx := rfl
@[simp] theorem subrangeOfWhole_tables : (subrangeOfWhole s).tables = s.tables := rfl
@[simp] theorem subrangeOfWhole_dest : (subrangeOfWhole s).dest = s.dest := rfl
@[simp] theorem outAddr_subrangeOfWhole : outAddr (subrangeOfWhole s) = outAddr s := rfl

@[simp] theorem advanceIdx_subrangeOfWhole : advanceIdx (subrangeOfWhole s) = subrangeOfWhole (advanceIdx s) := rfl

@[simp] theorem advanceOutpos_subrangeOfWhole (n : Nat) :
    advanceOutpos n (subrangeOfWhole s) = subrangeOfWhole (advanceOutpos n s) := rfl

@[simp] theorem withSrcText_subrangeOfWhole (c : CodePoint → Outcome) :
    withSrcText (subrangeOfWhole s) k c = withSrcText s k c := rfl

@[simp] theorem withSrcByte_subrangeOfWhole (c : Byte → Outcome) :
    withSrcByte (subrangeOfWhole s) k c = withSrcByte s k c := rfl

@[simp] theorem withPrevByte_subrangeOfWhole (c : Byte → Outcome) :
    withPrevByte (subrangeOfWhole s) k c = withPrevByte s k c := by
  cases k <;> rfl

@[simp] theorem withDestByte_subrangeOfWhole (c : Byte → Outcome) :
    withDestByte (subrangeOfWhole s) k c = withDestByte s k c := rfl

theorem setDest_subrangeOfWhole (b : Buffer) : (subrangeOfWhole s).setDest b = subrangeOfWhole (s.setDest b) := by
  unfold State.setDest
  cases h : s.run.into <;> simp [h] <;> rfl

@[simp] theorem writeDestByte_subrangeOfWhole (v : Byte) :
    writeDestByte (subrangeOfWhole s) k v = mapNext subrangeOfWhole (writeDestByte s k v) := by
  simp only [writeDestByte, subrangeOfWhole_dest, State.putDestByte, setDest_subrangeOfWhole]
  split <;> rfl

@[simp] theorem writeDestText_subrangeOfWhole (c : CodePoint) :
    writeDestText (subrangeOfWhole s) k c = mapNext subrangeOfWhole (writeDestText s k c) := by
  simp only [writeDestText, subrangeOfWhole_dest, State.putDestText, setDest_subrangeOfWhole]
  split <;> rfl

@[simp] theorem emitSymbol_subrangeOfWhole (v : Sym6) :
    emitSymbol v (subrangeOfWhole s) = mapNext subrangeOfWhole (emitSymbol v s) := by
  simp [emitSymbol]

end Shared

/-! The steps look at the sampled operands only (R171). -/

section Steps

variable (s : State)

theorem execEncP0_subrangeOfWhole : execEncP0 (subrangeOfWhole s) = mapNext subrangeOfWhole (execEncP0 s) := by
  simp [execEncP0, withSymbol]

theorem execEncP1_subrangeOfWhole : execEncP1 (subrangeOfWhole s) = mapNext subrangeOfWhole (execEncP1 s) := by
  simp [execEncP1, withSymbol]

theorem execEncP2_subrangeOfWhole : execEncP2 (subrangeOfWhole s) = mapNext subrangeOfWhole (execEncP2 s) := by
  simp [execEncP2, withSymbol]

theorem execEncP3_subrangeOfWhole : execEncP3 (subrangeOfWhole s) = mapNext subrangeOfWhole (execEncP3 s) := by
  simp [execEncP3, withSymbol]

theorem execDecP0_subrangeOfWhole : execDecP0 (subrangeOfWhole s) = mapNext subrangeOfWhole (execDecP0 s) := by
  simp [execDecP0]

theorem execDecP1_subrangeOfWhole : execDecP1 (subrangeOfWhole s) = mapNext subrangeOfWhole (execDecP1 s) := by
  simp [execDecP1]

theorem execDecP2_subrangeOfWhole : execDecP2 (subrangeOfWhole s) = mapNext subrangeOfWhole (execDecP2 s) := by
  simp [execDecP2]

end Steps

theorem conversionStep_subrangeOfWhole (dir : Dir) (s : State) :
    conversionStep dir (subrangeOfWhole s) = mapNext subrangeOfWhole (conversionStep dir s) := by
  cases dir with
  | encode =>
    simp only [conversionStep, encStep, subrangeOfWhole_idx, apply_ite (mapNext subrangeOfWhole),
      execEncP0_subrangeOfWhole, execEncP1_subrangeOfWhole, execEncP2_subrangeOfWhole, execEncP3_subrangeOfWhole]
  | decode =>
    simp only [conversionStep, decStep, subrangeOfWhole_idx, apply_ite (mapNext subrangeOfWhole),
      execDecP0_subrangeOfWhole, execDecP1_subrangeOfWhole, execDecP2_subrangeOfWhole]

theorem repeatStep_subrangeOfWhole (dir : Dir) (n : Nat) : ∀ s,
    repeatStep (conversionStep dir) n (subrangeOfWhole s) =
      mapNext subrangeOfWhole (repeatStep (conversionStep dir) n s) := by
  induction n with
  | zero => exact fun s => rfl
  | succ n ih => exact fun s => by simp [repeatStep, conversionStep_subrangeOfWhole, ih]

theorem deliver_subrangeOfWhole (s : State) : deliver (subrangeOfWhole s) = subrangeOfWhole (deliver s) := by
  unfold deliver
  rw [subrangeOfWhole_run]
  split <;> rfl

theorem finishOp_subrangeOfWhole (s : State) :
    finishOp (subrangeOfWhole s) = mapNext subrangeOfWhole (finishOp s) := by
  rw [finishOp_eq, deliver_subrangeOfWhole]
  rfl

/-! The launch of the sub-range form asks for and samples what the launch of the short form does (R53). -/

section Launch

variable (dir : Dir) (into : Bool) (s : State)

theorem premiseFailure_subrangeOfWhole :
    premiseFailure ⟨dir, into, false⟩ (subrangeOfWhole s) = premiseFailure ⟨dir, into, true⟩ s := rfl

theorem checkFailure_subrangeOfWhole :
    checkFailure ⟨dir, into, false⟩ (subrangeOfWhole s) = checkFailure ⟨dir, into, true⟩ s := rfl

theorem beginOp_subrangeOfWhole :
    beginOp ⟨dir, into, false⟩ (subrangeOfWhole s) = subrangeOfWhole (beginOp ⟨dir, into, true⟩ s) := rfl

theorem effCnt_subrangeOfWhole : effCnt false (subrangeOfWhole s) = effCnt true s := rfl

theorem convert_subrangeOfWhole :
    convert ⟨dir, into, false⟩ (conversionStep dir) (subrangeOfWhole s) =
      mapNext subrangeOfWhole (convert ⟨dir, into, true⟩ (conversionStep dir) s) := by
  simp only [convert, premiseFailure_subrangeOfWhole, checkFailure_subrangeOfWhole]
  cases premiseFailure ⟨dir, into, true⟩ s with
  | some r => rfl
  | none =>
    cases checkFailure ⟨dir, into, true⟩ s with
    | some e => rfl
    | none =>
      simp only [beginOp_subrangeOfWhole, effCnt_subrangeOfWhole, repeatStep_subrangeOfWhole, andThen_mapNext,
        finishOp_subrangeOfWhole, mapNext_andThen]

theorem query_subrangeOfWhole :
    query ⟨dir, into, false⟩ (subrangeOfWhole s) = mapNext subrangeOfWhole (query ⟨dir, into, true⟩ s) := by
  simp only [query, premiseFailure_subrangeOfWhole, checkFailure_subrangeOfWhole]
  cases premiseFailure ⟨dir, into, true⟩ s with
  | some r => rfl
  | none => cases checkFailure ⟨dir, into, true⟩ s <;> rfl

end Launch

/-- Settles O31: the launch of either form samples the same operands, and nothing after it looks at the two registers. -/
theorem shortFormEqualsSubrange : Obligations.ShortFormEqualsSubrange := by
  intro i f s hf hwhole
  have hself : withWhole true i = i := hwhole ▸ withWhole_whole hf
  obtain h | h := exec_withWhole hf
  · have hshort : exec i s = _ := hself ▸ h true s
    rw [h, hshort]
    exact convert_subrangeOfWhole f.dir f.into s
  · have hshort : exec i s = _ := hself ▸ h true s
    rw [h, hshort]
    exact query_subrangeOfWhole f.dir f.into s

end Sys2Proof.Machine
end

section
/-! The symbol translation there and back (`40_symbol_translation.md` rules R70, R71, R72). -/

namespace Sys2Proof.Machine

/-- An unmapped code point translates to the fallback slot (R70). -/
theorem xlateIn_of_unmapped {t : Tables} {c : CodePoint} (h : encLookup t c = none) : xlateIn t c = t.fallback := by
  simp only [xlateIn, h]

/-- `ENC_INDEX` maps scalar values only (R70 (a)). -/
theorem encLookup_of_not_scalar (t : Tables) {c : CodePoint} (h : isScalar c = false) : encLookup t c = none :=
  if_neg (Bool.eq_false_iff.mp h)

/-- A mapped code point comes back from the slot it translates to: constraint (3) of rule R72. -/
theorem xlateOut_xlateIn_of_mapped {t : Tables} {c : CodePoint} {x : Sym6} (h : encLookup t c = some x) :
    xlateOut t (xlateIn t c) = c := by
  rw [xlateIn_of_encLookup h, Tables.decodes_back t h]

/-- Settles O40: a mapped code point comes back by constraint (3) of the tables, an unmapped one takes the fallback slot
and comes back as what that slot holds, and a value that is not a scalar value is unmapped. -/
theorem translationComesBack : Obligations.TranslationComesBack := by
  refine fun t c => ⟨fun x hmapped => ?mapped, fun hunmapped => ?unmapped, fun hscalar => ?notScalar⟩
  case mapped => exact ⟨xlateIn_of_encLookup hmapped, xlateOut_xlateIn_of_mapped hmapped⟩
  case unmapped =>
    have hin : xlateIn t c = t.fallback := xlateIn_of_unmapped hunmapped
    exact ⟨hin, congrArg (xlateOut t) hin⟩
  case notScalar => exact xlateIn_of_unmapped (encLookup_of_not_scalar t hscalar)

end Sys2Proof.Machine
end

section
/-! What a step of an encode leaves in the destination and in the rest of the state (`41_pack_encode.md` rules R80 to R83). -/

namespace Sys2Proof.Machine

/-- Two neighbouring elements are written, and no other changes. -/
theorem Memory.read_put_put_succ {w : Nat} {m : Memory w} (hm : m.wf = true) {k : Nat} (hk : k + 1 < m.size)
    (v v' : BitVec w) :
    ((m.put k v).put (k + 1) v').read k = some v ∧ ((m.put k v).put (k + 1) v').read (k + 1) = some v' ∧
      ∀ j, j ≠ k → j ≠ k + 1 → ((m.put k v).put (k + 1) v').read j = m.read j := by
  refine ⟨?lower, ?upper, fun j hj hj' => ?other⟩
  case lower => rw [Memory.read_put_other _ k.lt_succ_self.ne, Memory.read_put_same hm (by omega)]
  case upper => rw [Memory.read_put_same (Memory.put_wf hm ..) (by rwa [Memory.put_size])]
  case other => rw [Memory.read_put_other _ hj', Memory.read_put_other _ hj]

/-- Two writes of a byte are one replacement of the destination. -/
theorem putDestByte_putDestByte (s : State) (k k' : Nat) (v v' : Byte) :
    (s.putDestByte k v).putDestByte k' v' =
      s.setDest { s.dest with bytes := (s.dest.bytes.put k v).put k' v' } := by
  rw [State.putDestByte, putDestByte_dest, State.putDestByte, setDest_setDest]

theorem advanceIdx_setDest (s : State) (b : Buffer) :
    advanceIdx (s.setDest b) = { s.setDest b with idx := s.idx + 1 } := by
  rw [advanceIdx, setDest_idx]

theorem advanceIdx_advanceOutpos_setDest (n : Nat) (s : State) (b : Buffer) :
    advanceIdx (advanceOutpos n (s.setDest b)) = { s.setDest b with idx := s.idx + 1, outpos := s.outpos + n } := by
  rw [advanceIdx, advanceOutpos_idx, advanceOutpos, setDest_idx, setDest_outpos]

/-- Settles O11: the step writes one byte, the symbol with zeros below. -/
theorem encP0Result : Obligations.EncP0Result := by
  intro s c hwf hc hout
  refine ⟨_, execEncP0_eq_next.mpr ⟨c, hc, hout, rfl⟩, ?_⟩
  rw [advanceIdx_dest, putDestByte_dest]
  exact ⟨Memory.read_put_same hwf hout _, fun k hk => Memory.read_put_other _ hk _, rfl, advanceIdx_setDest ..⟩

/-- A step that writes two neighbouring bytes of the destination changes nothing else but `IDX`. -/
theorem two_bytes_written {s t : State} (hwf : s.dest.bytes.wf = true) {k : Nat} (hk : k + 1 < s.dest.bytes.size)
    {v v' : Byte} (ht : t = advanceIdx ((s.putDestByte k v).putDestByte (k + 1) v')) :
    t.dest.bytes.read k = some v ∧ t.dest.bytes.read (k + 1) = some v' ∧
      (∀ j, j ≠ k → j ≠ k + 1 → t.dest.bytes.read j = s.dest.bytes.read j) ∧
      t.dest.text = s.dest.text ∧ t = { s.setDest t.dest with idx := s.idx + 1 } := by
  obtain ⟨hlower, hupper, hother⟩ := Memory.read_put_put_succ hwf hk v v'
  rw [ht, putDestByte_putDestByte, advanceIdx_dest, setDest_dest]
  exact ⟨hlower, hupper, hother, rfl, advanceIdx_setDest ..⟩

/-- Settles O12: the step writes the group's first and second byte. -/
theorem encP1Result : Obligations.EncP1Result := fun _ c b hwf hc hb hout =>
  ⟨_, execEncP1_eq_next.mpr ⟨c, b, hc, hb, hout, rfl⟩, two_bytes_written hwf hout rfl⟩

/-- Settles O13: the step writes the group's second and third byte. -/
theorem encP2Result : Obligations.EncP2Result := fun _ c b hwf hc hb hout =>
  ⟨_, execEncP2_eq_next.mpr ⟨c, b, hc, hb, hout, rfl⟩, two_bytes_written hwf hout rfl⟩

/-- Settles O14: the step writes the group's third byte, which exists since it was read, and both cursors advance. -/
theorem encP3Result : Obligations.EncP3Result := by
  intro s c b hwf hc hb
  obtain ⟨hout, -⟩ := Memory.read_eq_some.mp hb
  refine ⟨_, execEncP3_eq_next.mpr ⟨c, b, hc, hb, rfl⟩, ?_⟩
  rw [advanceIdx_dest, advanceOutpos_dest, putDestByte_dest]
  exact ⟨Memory.read_put_same hwf hout _, fun k hk => Memory.read_put_other _ hk _, rfl,
    advanceIdx_advanceOutpos_setDest ..⟩

end Sys2Proof.Machine
end

section
/-! What a step of a decode leaves in the destination and in the rest of the state (`42_unpack_decode.md` rules R100 to
R102). -/

namespace Sys2Proof.Machine

/-- A write of a code point does not look at the output cursor. -/
theorem putDestText_advanceOutpos (n : Nat) (s : State) (k : Nat) (c : CodePoint) :
    (advanceOutpos n s).putDestText k c = advanceOutpos n (s.putDestText k c) := by
  rw [State.putDestText, State.putDestText, advanceOutpos_dest, State.setDest, State.setDest, advanceOutpos_run]
  split <;> rfl

theorem advanceOutpos_advanceOutpos (m n : Nat) (s : State) :
    advanceOutpos m (advanceOutpos n s) = advanceOutpos (n + m) s := by
  simp only [advanceOutpos, Nat.add_assoc]

/-- Two writes of a code point are one replacement of the destination. -/
theorem putDestText_putDestText (s : State) (k k' : Nat) (c c' : CodePoint) :
    (s.putDestText k c).putDestText k' c' =
      s.setDest { s.dest with text := (s.dest.text.put k c).put k' c' } := by
  rw [State.putDestText, putDestText_dest, State.putDestText, setDest_setDest]

/-- A step that emits one symbol writes one code point and changes nothing else but the two cursors. -/
theorem one_symbol_emitted {s t : State} (hwf : s.dest.text.wf = true) (hout : outAddr s < s.dest.text.size)
    {c : CodePoint} (ht : t = advanceIdx (advanceOutpos 1 (s.putDestText (outAddr s) c))) :
    t.dest.text.read (outAddr s) = some c ∧
      (∀ k, k ≠ outAddr s → t.dest.text.read k = s.dest.text.read k) ∧
      t.dest.bytes = s.dest.bytes ∧ t = { s.setDest t.dest with idx := s.idx + 1, outpos := s.outpos + 1 } := by
  rw [ht, advanceIdx_dest, advanceOutpos_dest, putDestText_dest]
  exact ⟨Memory.read_put_same hwf hout _, fun k hk => Memory.read_put_other _ hk _, rfl,
    advanceIdx_advanceOutpos_setDest ..⟩

/-- Settles O15: the step emits one symbol, the top 6 bits of the byte it reads. -/
theorem decP0Result : Obligations.DecP0Result := fun _ b hwf hb hout =>
  ⟨_, execDecP0_eq_next.mpr ⟨b, hb, hout, rfl⟩, one_symbol_emitted hwf hout rfl⟩

/-- Settles O16: the step emits one symbol; past the first byte there is a previous one. -/
theorem decP1Result : Obligations.DecP1Result := fun _ b p hwf hi hb hp hout =>
  ⟨_, execDecP1_eq_next.mpr ⟨b, _, p, hb, by omega, hp, hout, rfl⟩, one_symbol_emitted hwf hout rfl⟩

/-- Settles O17: two symbols emitted one after the other are two neighbouring code points written and the cursor moved
once by 2. -/
theorem decP2Result : Obligations.DecP2Result := by
  intro s b p hwf hi hb hp hout
  refine ⟨_, execDecP2_eq_next.mpr ⟨b, _, p, hb, by omega, hp, hout, rfl⟩, ?_⟩
  rw [putDestText_advanceOutpos, advanceOutpos_advanceOutpos, putDestText_putDestText, advanceIdx_dest,
    advanceOutpos_dest, setDest_dest]
  obtain ⟨hfirst, hsecond, hother⟩ := Memory.read_put_put_succ hwf hout
    (xlateOut s.tables (sym42 (byteLow4 p) (byteTop2 b))) (xlateOut s.tables (byteLow6 b))
  exact ⟨hfirst, hsecond, hother, rfl, advanceIdx_advanceOutpos_setDest ..⟩

end Sys2Proof.Machine
end

section
/-! `Pack` after `Unpack`, and the trailing bits that `Unpack` drops (`42_unpack_decode.md` rule R107,
`45_roundtrip_laws.md` rule R135). -/

namespace Sys2Proof.Machine

/-! ### The parts of a byte and of a symbol put together and taken apart (R6, R31) -/

@[simp] theorem symTop2_sym24 (hi : BitVec 2) (lo : BitVec 4) : symTop2 (sym24 hi lo) = hi :=
  BitVec.extractLsb'_append_eq_left

@[simp] theorem symLow4_sym24 (hi : BitVec 2) (lo : BitVec 4) : symLow4 (sym24 hi lo) = lo :=
  BitVec.extractLsb'_append_eq_right

@[simp] theorem symTop4_sym42 (hi : BitVec 4) (lo : BitVec 2) : symTop4 (sym42 hi lo) = hi :=
  BitVec.extractLsb'_append_eq_left

@[simp] theorem symLow2_sym42 (hi : BitVec 4) (lo : BitVec 2) : symLow2 (sym42 hi lo) = lo :=
  BitVec.extractLsb'_append_eq_right

/-- A vector is its upper `m` and its lower `n` bits put together. -/
theorem append_extractLsb' (m n : Nat) (v : BitVec (m + n)) : v.extractLsb' n m ++ v.extractLsb' 0 n = v := by
  rw [BitVec.extractLsb'_append_extractLsb'_eq_extractLsb' (Nat.zero_add n).symm, BitVec.extractLsb'_eq_self]

/-- Zeros below the upper `m` bits: the mask keeps those and clears the lower `n`. -/
theorem extractLsb'_append_zero (m n : Nat) (v : BitVec (m + n)) :
    v.extractLsb' n m ++ 0#n = v &&& (BitVec.allOnes m ++ 0#n) := by
  conv_rhs => rw [← append_extractLsb' m n v, BitVec.and_append, BitVec.and_allOnes, BitVec.and_zero]

@[simp] theorem join62_byteTop6_byteLow2 (b : Byte) : join62 (byteTop6 b) (byteLow2 b) = b := append_extractLsb' 6 2 b

@[simp] theorem join44_byteTop4_byteLow4 (b : Byte) : join44 (byteTop4 b) (byteLow4 b) = b := append_extractLsb' 4 4 b

@[simp] theorem join26_byteTop2_byteLow6 (b : Byte) : join26 (byteTop2 b) (byteLow6 b) = b := append_extractLsb' 2 6 b

theorem join62_byteTop6_zero (b : Byte) : join62 (byteTop6 b) 0#2 = b &&& 0xFC#8 := extractLsb'_append_zero 6 2 b

theorem join44_byteTop4_zero (b : Byte) : join44 (byteTop4 b) 0#4 = b &&& 0xF0#8 := extractLsb'_append_zero 4 4 b

/-! ### `Pack` after `Unpack` (R135) -/

theorem byteCount_charCount (m : Nat) : byteCount (charCount m) = m := by
  simp only [byteCount, charCount]
  omega

theorem length_pack_unpack (l : List Byte) : (pack (unpack l)).length = l.length := by
  rw [length_pack, length_unpack, byteCount_charCount]

/-- Full groups of bytes come back, whatever follows them. -/
theorem pack_unpack_append {l : List Byte} (h : l.length % 3 = 0) (r : List Byte) :
    pack (unpack (l ++ r)) = l ++ pack (unpack r) := by
  induction l using unpack.induct with
  | case1 => rfl
  | case2 | case3 => simp at h
  | case4 b0 b1 b2 rest ih =>
    simp only [List.length_cons] at h
    simp [unpack, pack, ih (by omega)]

/-- A sequence of bytes of length 1 modulo 3 is full groups and one byte. -/
theorem exists_groups_concat {l : List Byte} (h : l.length % 3 = 1) :
    ∃ (g : List Byte) (p : Byte), l = g ++ [p] ∧ g.length % 3 = 0 := by
  obtain ⟨g, r, rfl, hg, hr⟩ := exists_groups 3 l
  obtain ⟨p, rfl⟩ := List.length_eq_one_iff.mp (hr.trans h)
  exact ⟨g, p, rfl, hg⟩

/-- Settles O35: full groups come back as they are, and what follows them is one or two bytes. -/
theorem packAfterUnpack : Obligations.PackAfterUnpack := by
  refine fun l b => ⟨length_pack_unpack l, fun h => ?full, fun h => ?oneByte, fun h => ?twoBytes⟩
  case full => simpa [unpack, pack] using pack_unpack_append h []
  case oneByte => simp [pack_unpack_append h, unpack, pack, join62_byteTop6_zero]
  case twoBytes =>
    obtain ⟨g, p, rfl, hg⟩ := exists_groups_concat h
    simp [pack_unpack_append hg, unpack, pack, join44_byteTop4_zero]

/-! ### The trailing bits of the last byte (R107) -/

/-- Settles O39: the last byte comes into the symbols by its top 6 or by its top 4 bits only. -/
theorem trailingBitsIgnored : Obligations.TrailingBitsIgnored := by
  refine fun l b b' => ⟨fun h (htop : byteTop6 b = byteTop6 b') => ?oneByte,
    fun h (htop : byteTop4 b = byteTop4 b') => ?twoBytes⟩
  case oneByte => rw [unpack_concat_phase0 h, unpack_concat_phase0 h, htop]
  case twoBytes =>
    obtain ⟨g, p, rfl, hg⟩ := exists_groups_concat h
    rw [unpack_concat_phase1 hg, unpack_concat_phase1 hg, htop]

end Sys2Proof.Machine
end

section
/-! The count queries (`43_length_queries.md` rules R122 and R123), the conversions they answer for (R136), and the two
length functions (R127). -/

namespace Sys2Proof.Machine

/-! ### What a query answers -/

/-- A query whose launch is not refused and passes its checks answers the length of the output. -/
theorem query_begins {f : OpForm} {s : State} (h : Begins f s) :
    query f s = .next { s with result := needOf f.dir (effCnt f.whole s), status := 0 } := by
  obtain ⟨hp, hc⟩ := h
  simp only [query, premiseFailure_eq_none.mpr hp, checkFailure_eq_none.mpr hc]
  rfl

/-- Settles O18: the query has the launch of an allocating encode, and the length is `ceil(6 cnt / 8)` (R120). -/
theorem getByteCountResult : Obligations.GetByteCountResult :=
  fun _ _ hp hsrc hfits => query_begins (allocating_begins hp hsrc hfits)

/-- Settles O19: the query has the launch of an allocating decode, and the length is `floor(8 cnt / 6)` (R121). -/
theorem getCharCountResult : Obligations.GetCharCountResult :=
  fun _ _ hp hsrc hfits => query_begins (allocating_begins hp hsrc hfits)

/-! ### A query ends like its conversion -/

/-- Both are refused for the same reason, or both go on, with the same `RESULT` and the same `STATUS`. -/
inductive EndsAlike : Outcome → Outcome → Prop
  | refused (r : Refusal) : EndsAlike (.refused r) (.refused r)
  | next {t u : State} (hresult : u.result = t.result) (hstatus : u.status = t.status) : EndsAlike (.next t) (.next u)

theorem EndsAlike.symm {o p : Outcome} : EndsAlike o p → EndsAlike p o
  | .refused r => .refused r
  | .next hresult hstatus => .next hresult.symm hstatus.symm

theorem EndsAlike.exists_next {o p : Outcome} (h : EndsAlike o p) (t : State) (ht : o = .next t) :
    ∃ u, p = .next u ∧ u.result = t.result ∧ u.status = t.status := by
  cases h with
  | refused r => cases ht
  | next hresult hstatus => cases ht; exact ⟨_, rfl, hresult, hstatus⟩

/-- A conversion that begins ends with the length of its output in `RESULT`. -/
theorem convert_begins_ends {f : OpForm} {s : State} (h : Begins f s) :
    ∃ t, convert f (conversionStep f.dir) s = .next t ∧ t.result = needOf f.dir (effCnt f.whole s) ∧ t.status = 0 := by
  obtain ⟨u, hu, hend⟩ := convert_ends h
  exact ⟨_, hend, congrArg Run.need (repeatStep_frame hu).run, rfl⟩

/-- A conversion and the query of the same form have the same launch, and a conversion that begins ends. -/
theorem convert_endsAlike_query (f : OpForm) (s : State) :
    EndsAlike (convert f (conversionStep f.dir) s) (query f s) := by
  cases hp : premiseFailure f s with
  | some r =>
    rw [convert, query, hp]
    exact .refused r
  | none =>
    cases hc : checkFailure f s with
    | some e =>
      rw [convert, query, hp, hc]
      exact .next rfl rfl
    | none =>
      have hb : Begins f s := ⟨premiseFailure_eq_none.mp hp, checkFailure_eq_none.mp hc⟩
      obtain ⟨t, ht, hresult, hstatus⟩ := convert_begins_ends hb
      rw [ht, query_begins hb]
      exact .next hresult.symm hstatus.symm

/-- Settles O23: each query is the query of the conversion's form. -/
theorem queriesAgreeWithConversions : Obligations.QueriesAgreeWithConversions := fun whole s =>
  have hencode := convert_endsAlike_query ⟨.encode, false, whole⟩ s
  have hdecode := convert_endsAlike_query ⟨.decode, false, whole⟩ s
  ⟨hencode.exists_next, hencode.symm.exists_next, hdecode.exists_next, hdecode.symm.exists_next⟩

/-! ### The two length functions (R127) -/

/-- A full group of four symbols is three bytes. -/
theorem byteCount_groups (k r : Nat) : byteCount (4 * k + r) = 3 * k + byteCount r := by
  simp only [byteCount]
  omega

/-- A full group of three bytes is four symbols. -/
theorem charCount_groups (k r : Nat) : charCount (3 * k + r) = 4 * k + charCount r := by
  simp only [charCount]
  omega

theorem charCount_byteCount_of_lt : ∀ r < 4, charCount (byteCount r) = if r = 3 then r + 1 else r := by decide

/-- Full groups come back, and of less than a group only three symbols come back as four. -/
theorem charCount_byteCount (n : Nat) : charCount (byteCount n) = if n % 4 = 3 then n + 1 else n := by
  have hgroups : charCount (byteCount n) = 4 * (n / 4) + charCount (byteCount (n % 4)) := by
    rw [← charCount_groups, ← byteCount_groups, Nat.div_add_mod]
  rw [hgroups, charCount_byteCount_of_lt _ (Nat.mod_lt n (by decide))]
  split <;> omega

/-- Settles O33: full groups count by themselves, and less than a group is one of the first values. -/
theorem lengthTable : Obligations.LengthTable :=
  ⟨fun k => ⟨byteCount_groups k 0, byteCount_groups k 1, byteCount_groups k 2, byteCount_groups k 3,
      charCount_groups k 0, charCount_groups k 1, charCount_groups k 2⟩,
    byteCount_charCount, charCount_byteCount, by decide, by decide⟩

end Sys2Proof.Machine
end

section
/-! `Pack` and `Unpack` at group boundaries, and `Unpack` after `Pack` (`45_roundtrip_laws.md` rules R130 to R132 and
R138). -/

namespace Sys2Proof.Machine

/-- Settles O36: at a group boundary both begin again; inside a group what follows continues a byte or a symbol. -/
theorem concatenationAtGroupBoundary : Obligations.ConcatenationAtGroupBoundary :=
  ⟨fun _ _ => pack_append, fun _ _ => unpack_append, ⟨[0], [1], by decide⟩, ⟨[1], [0], by decide⟩⟩

/-! ### The parts of a symbol, and those of a byte, put together and taken apart (R6, R31) -/

@[simp] theorem byteLow2_join62 (hi : BitVec 6) (lo : BitVec 2) : byteLow2 (join62 hi lo) = lo :=
  BitVec.extractLsb'_append_eq_right

@[simp] theorem byteLow4_join44 (hi lo : BitVec 4) : byteLow4 (join44 hi lo) = lo := BitVec.extractLsb'_append_eq_right

@[simp] theorem byteLow6_join26 (hi : BitVec 2) (lo : BitVec 6) : byteLow6 (join26 hi lo) = lo :=
  BitVec.extractLsb'_append_eq_right

@[simp] theorem sym24_symTop2_symLow4 (x : Sym6) : sym24 (symTop2 x) (symLow4 x) = x := append_extractLsb' 2 4 x

@[simp] theorem sym42_symTop4_symLow2 (x : Sym6) : sym42 (symTop4 x) (symLow2 x) = x := append_extractLsb' 4 2 x

/-! ### `Unpack` after `Pack` (R130 to R132) -/

/-- Full groups of symbols come back, whatever follows them. -/
theorem unpack_pack_append {l : List Sym6} (h : l.length % 4 = 0) (r : List Sym6) :
    unpack (pack (l ++ r)) = l ++ unpack (pack r) := by
  induction l using pack.induct with
  | case1 => rfl
  | case2 | case3 | case4 => simp at h
  | case5 s0 s1 s2 s3 rest ih =>
    simp only [List.length_cons] at h
    simp [pack, unpack, ih (by omega)]

/-- Of less than a group, three symbols leave room for a fourth in their bytes, which reads as the zero padding. -/
theorem unpack_pack_of_lt {r : List Sym6} (h : r.length < 4) :
    unpack (pack r) = r ++ (if r.length = 3 then [Config.padIndex] else []) := by
  match r with
  | [] => rfl
  | [_] | [_, _] | [_, _, _] => simp [pack, unpack]
  | _ :: _ :: _ :: _ :: _ =>
    simp only [List.length_cons] at h
    omega

theorem unpack_pack (l : List Sym6) :
    unpack (pack l) = l ++ (if l.length % 4 = 3 then [Config.padIndex] else []) := by
  obtain ⟨g, r, rfl, hg, hr⟩ := exists_groups 4 l
  have hlt : r.length < 4 := hr ▸ Nat.mod_lt _ (by decide)
  rw [unpack_pack_append hg, unpack_pack_of_lt hlt, ← hr, List.append_assoc]

/-- Settles O34: the symbols come back with the pad symbol where the residue is 3, and the length follows from the two
length functions. -/
theorem unpackAfterPack : Obligations.UnpackAfterPack := by
  intro l
  have hlen : (unpack (pack l)).length = charCount (byteCount l.length) := by rw [length_unpack, length_pack]
  refine ⟨unpack_pack l, hlen, ?_⟩
  rw [hlen, charCount_byteCount]
  split <;> omega

end Sys2Proof.Machine
end

section
/-! A sub-range form beside the whole form on the range taken by itself (`45_roundtrip_laws.md` rule R139): the two
conversions go through the same steps, each on its own source. -/

namespace Sys2Proof.Machine

/-- An element of a range is the element of the extracted range at its place there. -/
theorem Memory.read_ofList_slice {w : Nat} {m : Memory w} {off cnt j : Nat} {v : BitVec w} (hj : j < cnt)
    (h : m.read (off + j) = some v) : (Memory.ofList (m.slice off cnt)).read j = some v := by
  obtain ⟨-, rfl⟩ := Memory.read_eq_some.mp h
  rw [← Memory.getElem?_toList, Memory.toList_ofList]
  simp [Memory.slice, hj]

/-- `s` with the range of the conversion in progress as its whole source. -/
def State.onExtract (s : State) : State :=
  { s with
    src := subBuffer s.run.dir s.src s.run.off s.run.cnt
    srcLen := s.run.cnt
    aliases := []
    run := { s.run with off := 0 } }

/-! ### What the updates of a step do to it -/

section Shared

variable (s : State)

@[simp] theorem onExtract_idx : s.onExtract.idx = s.idx := rfl
@[simp] theorem onExtract_tables : s.onExtract.tables = s.tables := rfl
@[simp] theorem onExtract_dest : s.onExtract.dest = s.dest := rfl
@[simp] theorem onExtract_into : s.onExtract.run.into = s.run.into := rfl
@[simp] theorem outAddr_onExtract : outAddr s.onExtract = outAddr s := rfl
@[simp] theorem onExtract_advanceIdx : (advanceIdx s).onExtract = advanceIdx s.onExtract := rfl

@[simp] theorem onExtract_advanceOutpos (n : Nat) : (advanceOutpos n s).onExtract = advanceOutpos n s.onExtract := rfl

theorem onExtract_setDest (b : Buffer) : (s.setDest b).onExtract = s.onExtract.setDest b := by
  unfold State.setDest
  rw [onExtract_into]
  split <;> rfl

@[simp] theorem onExtract_putDestByte (k : Nat) (v : Byte) :
    (s.putDestByte k v).onExtract = s.onExtract.putDestByte k v := onExtract_setDest s _

@[simp] theorem onExtract_putDestText (k : Nat) (c : CodePoint) :
    (s.putDestText k c).onExtract = s.onExtract.putDestText k c := onExtract_setDest s _

theorem onExtract_deliver : (deliver s).onExtract = deliver s.onExtract := by
  unfold deliver
  rw [onExtract_into]
  split <;> rfl

end Shared

/-! ### The steps find the same elements there -/

section Encode

variable {s t : State} (hd : s.run.dir = .encode) (hi : s.idx < s.run.cnt)
include hd hi

theorem onExtract_read_text {c : CodePoint} (h : s.src.text.read (s.run.off + s.idx) = some c) :
    s.onExtract.src.text.read (s.onExtract.run.off + s.onExtract.idx) = some c := by
  simpa [State.onExtract, hd, subBuffer] using Memory.read_ofList_slice hi h

theorem execEncP0_onExtract (h : execEncP0 s = .next t) : execEncP0 s.onExtract = .next t.onExtract := by
  obtain ⟨c, hc, hout, rfl⟩ := execEncP0_eq_next.mp h
  exact execEncP0_eq_next.mpr ⟨c, onExtract_read_text hd hi hc, hout, by simp⟩

theorem execEncP1_onExtract (h : execEncP1 s = .next t) : execEncP1 s.onExtract = .next t.onExtract := by
  obtain ⟨c, b, hc, hb, hout, rfl⟩ := execEncP1_eq_next.mp h
  exact execEncP1_eq_next.mpr ⟨c, b, onExtract_read_text hd hi hc, hb, hout, by simp⟩

theorem execEncP2_onExtract (h : execEncP2 s = .next t) : execEncP2 s.onExtract = .next t.onExtract := by
  obtain ⟨c, b, hc, hb, hout, rfl⟩ := execEncP2_eq_next.mp h
  exact execEncP2_eq_next.mpr ⟨c, b, onExtract_read_text hd hi hc, hb, hout, by simp⟩

theorem execEncP3_onExtract (h : execEncP3 s = .next t) : execEncP3 s.onExtract = .next t.onExtract := by
  obtain ⟨c, b, hc, hb, rfl⟩ := execEncP3_eq_next.mp h
  exact execEncP3_eq_next.mpr ⟨c, b, onExtract_read_text hd hi hc, hb, by simp⟩

theorem encStep_onExtract (h : encStep s = .next t) : encStep s.onExtract = .next t.onExtract := by
  unfold encStep at h ⊢
  rw [onExtract_idx]
  split_ifs at h ⊢
  · exact execEncP0_onExtract hd hi h
  · exact execEncP1_onExtract hd hi h
  · exact execEncP2_onExtract hd hi h
  · exact execEncP3_onExtract hd hi h

end Encode

section Decode

variable {s t : State} (hd : s.run.dir = .decode) (hi : s.idx < s.run.cnt)
include hd

theorem onExtract_read_bytes {j : Nat} {b : Byte} (hj : j < s.run.cnt) (h : s.src.bytes.read (s.run.off + j) = some b) :
    s.onExtract.src.bytes.read (s.onExtract.run.off + j) = some b := by
  simpa [State.onExtract, hd, subBuffer] using Memory.read_ofList_slice hj h

include hi

/-- Past the first byte the byte before the current one is in the range too. -/
theorem onExtract_read_prev {k : Nat} {p : Byte} (hpos : s.idx % 3 ≠ 0) (hk : s.run.off + s.idx = k + 1)
    (hp : s.src.bytes.read k = some p) :
    ∃ j, s.onExtract.run.off + s.onExtract.idx = j + 1 ∧ s.onExtract.src.bytes.read j = some p := by
  obtain ⟨i, hidx⟩ : ∃ i, s.idx = i + 1 := ⟨s.idx - 1, by omega⟩
  obtain rfl : k = s.run.off + i := by omega
  exact ⟨s.onExtract.run.off + i, by simp [hidx, Nat.add_assoc], onExtract_read_bytes hd (by omega) hp⟩

theorem execDecP0_onExtract (h : execDecP0 s = .next t) : execDecP0 s.onExtract = .next t.onExtract := by
  obtain ⟨b, hb, hout, rfl⟩ := execDecP0_eq_next.mp h
  exact execDecP0_eq_next.mpr ⟨b, onExtract_read_bytes hd hi hb, hout, by simp⟩

theorem execDecP1_onExtract (hpos : s.idx % 3 ≠ 0) (h : execDecP1 s = .next t) :
    execDecP1 s.onExtract = .next t.onExtract := by
  obtain ⟨b, k, p, hb, hk, hp, hout, rfl⟩ := execDecP1_eq_next.mp h
  obtain ⟨j, hj, hread⟩ := onExtract_read_prev hd hi hpos hk hp
  exact execDecP1_eq_next.mpr ⟨b, j, p, onExtract_read_bytes hd hi hb, hj, hread, hout, by simp⟩

theorem execDecP2_onExtract (hpos : s.idx % 3 ≠ 0) (h : execDecP2 s = .next t) :
    execDecP2 s.onExtract = .next t.onExtract := by
  obtain ⟨b, k, p, hb, hk, hp, hout, rfl⟩ := execDecP2_eq_next.mp h
  obtain ⟨j, hj, hread⟩ := onExtract_read_prev hd hi hpos hk hp
  exact execDecP2_eq_next.mpr ⟨b, j, p, onExtract_read_bytes hd hi hb, hj, hread, hout, by simp⟩

theorem decStep_onExtract (h : decStep s = .next t) : decStep s.onExtract = .next t.onExtract := by
  unfold decStep at h ⊢
  rw [onExtract_idx]
  split_ifs at h ⊢ with hi0 hi1
  · exact execDecP0_onExtract hd hi h
  · exact execDecP1_onExtract hd hi hi0 h
  · exact execDecP2_onExtract hd hi hi0 h

end Decode

theorem conversionStep_onExtract {s t : State} (hi : s.idx < s.run.cnt) (h : conversionStep s.run.dir s = .next t) :
    conversionStep s.run.dir s.onExtract = .next t.onExtract := by
  cases hd : s.run.dir <;> rw [hd] at h
  case encode => exact encStep_onExtract hd hi h
  case decode => exact decStep_onExtract hd hi h

theorem repeatStep_onExtract :
    ∀ {n : Nat} {s t : State}, s.idx + n ≤ s.run.cnt → repeatStep (conversionStep s.run.dir) n s = .next t →
      repeatStep (conversionStep s.run.dir) n s.onExtract = .next t.onExtract
  | 0, _, _, _, h => Host.Outcome.next.inj h ▸ rfl
  | n + 1, s, t, hn, h => by
    obtain ⟨u, hu, ht⟩ := andThen_eq_next.mp h
    obtain ⟨_, heffect, -⟩ := conversionStep_effect hu
    have hrun : u.run = s.run := heffect.frame.run
    rw [← hrun] at ht
    have hrest := repeatStep_onExtract (by rw [heffect.idx, hrun]; omega) ht
    rw [hrun] at hrest
    exact andThen_eq_next.mpr ⟨_, conversionStep_onExtract (by omega) hu, hrest⟩

/-! ### The launch on the extracted range -/

/-- `s` with its effective source range as the whole of `SRC`. -/
def extractRange (dir : Dir) (s : State) : State :=
  { s with src := subBuffer dir s.src s.srcOff s.srcCnt, srcLen := s.srcCnt, aliases := [] }

section Launch

variable {dir : Dir} {into : Bool} {s : State}

theorem sourceSize_subBuffer (b : Buffer) (off cnt : Nat) : sourceSize dir (subBuffer dir b off cnt) = cnt := by
  cases dir <;> simp [sourceSize, subBuffer]

/-- The whole form on the extracted range passes every check that the sub-range form passes. -/
theorem begins_extractRange (h : Begins ⟨dir, into, false⟩ s) : Begins ⟨dir, into, true⟩ (extractRange dir s) := by
  obtain ⟨⟨hidle, hbufctl, ⟨-, hdst⟩, -⟩, hpresent, -, hdfits⟩ := h
  exact ⟨⟨hidle, hbufctl, ⟨fun _ => (sourceSize_subBuffer ..).ge, hdst⟩, nofun⟩, hpresent, (Nat.zero_add _).le, hdfits⟩

theorem beginOp_extractRange :
    beginOp ⟨dir, into, true⟩ (extractRange dir s) = (beginOp ⟨dir, into, false⟩ s).onExtract := rfl

/-- The two conversions end alike. -/
theorem convert_extractRange (h : Begins ⟨dir, into, false⟩ s) :
    ∃ u : State, convert ⟨dir, into, false⟩ (conversionStep dir) s =
        .next { deliver u with result := u.run.need, status := 0 } ∧
      convert ⟨dir, into, true⟩ (conversionStep dir) (extractRange dir s) =
        .next { (deliver u).onExtract with result := u.run.need, status := 0 } := by
  obtain ⟨u, hu, hend⟩ := convert_ends h
  obtain ⟨v, hv, hendv⟩ := convert_ends (begins_extractRange h)
  have hsteps : v = u.onExtract := by
    have := repeatStep_onExtract (s := beginOp ⟨dir, into, false⟩ s) (Nat.zero_add _).le hu
    exact Host.Outcome.next.inj (hv.symm.trans this)
  rw [hsteps, ← onExtract_deliver] at hendv
  exact ⟨u, hend, hendv⟩

end Launch

/-- Settles O32: a query looks at the count only, and the two conversions go through the same steps. -/
theorem subrangeEqualsExtractedRange : Obligations.SubrangeEqualsExtractedRange := by
  rintro i ⟨dir, into, whole⟩ s hf rfl hp hpresent hfits hdfits
  have hbegins : Begins ⟨dir, into, false⟩ s := ⟨hp, hpresent, hfits, hdfits⟩
  have hself : withWhole false i = i := withWhole_whole hf
  obtain h | h := exec_withWhole hf
  case inl =>
    obtain ⟨u, hsub, hwhole⟩ := convert_extractRange hbegins
    have hi : exec i s = _ := hself ▸ h false s
    exact ⟨_, _, hi.trans hsub, (h true (extractRange dir s)).trans hwhole, rfl, rfl, rfl, rfl⟩
  case inr =>
    have hi : exec i s = _ := hself ▸ h false s
    exact ⟨_, _, hi.trans (query_begins hbegins),
      (h true (extractRange dir s)).trans (query_begins (begins_extractRange hbegins)), rfl, rfl, rfl, rfl⟩

end Sys2Proof.Machine
end

section
/-! A text encoded, and the bytes decoded (`45_roundtrip_laws.md` rules R133 and R134). -/

namespace Sys2Proof.Machine

section RoundTrip

variable {s : State} (hp : LaunchPremises ⟨.encode, false, true⟩ s) (hsrc : srcPresent s = true)
include hp hsrc

/-- The host encodes its text, supplies the delivered buffer as the source, and decodes it. -/
theorem encode_then_decode :
    ∃ t u, exec (.encode true) s = .next t ∧ (t.buffer (.held 0)).bytes.toList = encodedBytes true s ∧
      exec (.decode true) { t with src := t.buffer (.held 0), srcLen := t.result } = .next u ∧
      (u.buffer (.held 0)).text.toList = (unpack (encodedBytes true s)).map (xlateOut s.tables) := by
  obtain ⟨t, b, ht, hbytes, -, -, hresult, -, -, hframe⟩ := encodeResult true s hp hsrc (Nat.zero_add _).le
  obtain ⟨-, hreserved, -, -⟩ := hp
  have hstatus : t.status = 0 := by rw [hframe]
  have hidle : Idle t := by rw [Idle, busy, hstatus]; rfl
  have hbufctl : t.bufctl = s.bufctl := by rw [hframe]
  have hlegal : BufctlLegal t := by rwa [BufctlLegal, bufctlReserved, hbufctl]
  have hpresent : srcPresent t = true := by rwa [srcPresent, hbufctl]
  have htables : t.tables = s.tables := by rw [hframe]
  obtain rfl : b = t.buffer (.held 0) := by rw [hframe]; rfl
  obtain ⟨u, c, hu, htext, -, -, -, -, -, huframe⟩ :=
    decodeResult true { t with src := t.buffer (.held 0), srcLen := t.result }
      ⟨hidle, hlegal, ⟨fun _ => hresult.le, nofun⟩, nofun⟩ hpresent (Nat.zero_add _).le
  obtain rfl : c = u.buffer (.held 0) := by rw [huframe]; rfl
  have hsource : sourceBytes true { t with src := t.buffer (.held 0), srcLen := t.result } = encodedBytes true s := by
    rw [encodedBytes, ← hbytes, Memory.toList, ← hresult]
    rfl
  exact ⟨t, u, ht, hbytes, hu, by rw [htext, hsource, ← htables]⟩

end RoundTrip

/-- A text of mapped code points comes back from the symbols it translates to. -/
theorem map_xlateOut_xlateIn {t : Tables} {l : List CodePoint} (h : ∀ c ∈ l, encLookup t c ≠ none) :
    (l.map (xlateIn t)).map (xlateOut t) = l := by
  have hback : ∀ c ∈ l, (xlateOut t ∘ xlateIn t) c = id c := fun c hc =>
    have ⟨_, hx⟩ := Option.ne_none_iff_exists'.mp (h c hc)
    xlateOut_xlateIn_of_mapped hx
  rw [List.map_map, List.map_congr_left hback, List.map_id]

/-- Settles O42: the symbols of the text come back, and the pad symbol after them is the space of slot 0. -/
theorem textRoundTrip : Obligations.TextRoundTrip := by
  intro s hp hsrc hmapped
  obtain ⟨t, u, ht, -, hu, htext⟩ := encode_then_decode hp hsrc
  refine ⟨t, u, ht, hu, ?_⟩
  have hspace : xlateOut s.tables Config.padIndex = 0x20 := (Tables.space s.tables).1
  rw [htext, encodedBytes, unpack_pack, List.map_append, map_xlateOut_xlateIn hmapped, List.length_map]
  split
  · rw [List.map_singleton, hspace]
  · rfl

/-- Settles O43: one symbol, the fallback's, is the top of one byte. -/
theorem fallbackIsDeterministic : Obligations.FallbackIsDeterministic := by
  intro s c hp hsrc hsource hunmapped
  obtain ⟨t, u, ht, hbytes, hu, htext⟩ := encode_then_decode hp hsrc
  have hencoded : encodedBytes true s = [join62 s.tables.fallback 0] := by
    simp [encodedBytes, hsource, xlateIn_of_unmapped hunmapped, pack]
  rw [hencoded] at hbytes htext
  exact ⟨t, u, ht, hbytes, hu, by simpa [unpack] using htext⟩

end Sys2Proof.Machine
end

section
/-! A range that does not fit (`60_exceptions.md` rules R142, R143 and R146), and an engine with nothing to do
(rule R155). -/

namespace Sys2Proof.Machine

/-- With the buffers present the first range that does not fit is what fails, the source range before the destination
window (R146). -/
theorem checkFailure_of_range {f : OpForm} {s : State} (hpresent : BuffersPresent f s)
    (h : ¬ SourceFits f s ∨ ¬ DestFits f s) : checkFailure f s = some .outOfRange := by
  obtain ⟨hsrc, hdst⟩ := hpresent
  by_cases hfits : SourceFits f s
  · obtain ⟨hinto, hwindow⟩ := Classical.not_imp.mp (h.resolve_left (not_not_intro hfits))
    simp [checkFailure, hsrc, hinto, hdst hinto, rangeFails_eq_false.mpr hfits, rangeFails_eq_true.mpr hwindow]
  · have hdstFound : (f.into && !dstPresent s) = false := by simpa using hdst
    simp [checkFailure, hsrc, hdstFound, rangeFails_eq_true.mpr hfits]

/-- Settles O25: with the premises and the presence checks met, the range that does not fit raises its error. -/
theorem outOfRangeRaised : Obligations.OutOfRangeRaised := fun _ _ _ hf hp hpresent hrange =>
  exec_of_checkFailure hf hp (checkFailure_of_range hpresent hrange)

/-- Settles O3: with the engine idle and no host move pending, nobody moves. -/
theorem idleEngineHoldsRegisters : Obligations.IdleEngineHoldsRegisters := fun _ => step_of_idle_nil

end Sys2Proof.Machine
end

section
/-! A reset in the middle of an operation (`70_reset_and_hazards.md` rule R160), and what the host does with its buffers
between operations and while one runs (rules R166 and R174). -/

namespace Sys2Proof.Machine

/-! ### What an abandoned operation leaves (R160) -/

section Abandon

variable {w : Nat}

/-- From `m` to `m'` only the `n` elements from `base` on may have changed. -/
structure KeptOutside (base n : Nat) (m m' : Memory w) : Prop where
  size : m'.size = m.size
  outside : ∀ k, k < base ∨ base + n ≤ k → m'.read k = m.read k

theorem KeptOutside.refl (base n : Nat) (m : Memory w) : KeptOutside base n m m := ⟨rfl, fun _ _ => rfl⟩

/-- A window is changed from its last element down. -/
theorem KeptOutside.of_put_last {base n : Nat} {m m' : Memory w} {v : BitVec w}
    (h : KeptOutside base n (m.put (base + n) v) m') : KeptOutside base (n + 1) m m' := by
  refine ⟨h.size.trans (Memory.put_size ..), fun k hk => ?_⟩
  rw [h.outside k (by omega), Memory.read_put_other m (by omega)]

theorem freeBytes_keptOutside (draw base : Nat) :
    ∀ (n : Nat) (m : Memory 8), KeptOutside base n m (freeBytes draw base n m)
  | 0, m => .refl base 0 m
  | n + 1, _ => (freeBytes_keptOutside draw base n _).of_put_last

theorem freeTexts_keptOutside (draw base : Nat) :
    ∀ (n : Nat) (m : Memory 21), KeptOutside base n m (freeTexts draw base n m)
  | 0, m => .refl base 0 m
  | n + 1, _ => (freeTexts_keptOutside draw base n _).of_put_last

variable {s : State}

theorem abandon_of_fresh (h : s.run.into = false) : abandon s = { s with fresh := Buffer.absent } := by
  rw [abandon, if_neg (Bool.eq_false_iff.mp h)]

theorem abandon_of_into (h : s.run.into = true) :
    ∃ b n, abandon s = { s with dst := b, draws := n } ∧
      KeptOutside s.run.dbase s.run.need s.dst.text b.text ∧
      KeptOutside s.run.dbase s.run.need s.dst.bytes b.bytes := by
  rw [abandon, if_pos h]
  cases s.run.dir with
  | encode => exact ⟨_, _, rfl, .refl .., freeBytes_keptOutside ..⟩
  | decode => exact ⟨_, _, rfl, freeTexts_keptOutside .., .refl ..⟩

theorem resetEngine_of_busy (hb : busy s = true) : resetEngine s = resetRegisters (abandon s) := by
  rw [resetEngine, if_pos hb]

end Abandon

/-- Settles O54: a fresh destination is dropped, and of a supplied one only the window is overwritten. -/
theorem resetDuringOperation : Obligations.ResetDuringOperation := by
  intro s rest hb hh
  have hstep : step s = .next (resetRegisters (abandon { s with host := rest })) := by
    rw [← resetEngine_of_busy (s := { s with host := rest }) hb]
    exact step_of_busy_cons hb hh
  cases hinto : s.run.into with
  | false =>
    rw [abandon_of_fresh (s := { s with host := rest }) hinto] at hstep
    exact ⟨_, hstep, rfl, rfl, rfl, rfl, rfl, rfl, rfl, fun _ => ⟨rfl, rfl⟩, nofun⟩
  | true =>
    obtain ⟨b, n, hab, htext, hbytes⟩ := abandon_of_into (s := { s with host := rest }) hinto
    rw [hab] at hstep
    exact ⟨_, hstep, rfl, rfl, rfl, rfl, rfl, htext.size, hbytes.size, nofun,
      fun _ => ⟨rfl, fun k hk => ⟨hbytes.outside k hk, htext.outside k hk⟩⟩⟩

/-! ### The host's changes to its buffers (R164, R174) -/

/-- Settles O56: a move that puts new elements into a buffer is a replacement of that buffer. -/
theorem hostChangesBuffers : Obligations.HostChangesBuffers := by
  intro s b rest hi hheld
  refine ⟨fun c hh => step_of_idle_cons hi hh, fun shared hh => step_of_idle_cons hi hh, fun m v hh hm => ?_,
    fun hh => ?_⟩
  · have hmove : hostMoveIdle m { s with host := rest } = .next (State.replace { s with host := rest } b v) := by
      obtain ⟨c, rfl, rfl⟩ | ⟨a, rfl, rfl⟩ | ⟨k, x, rfl, rfl⟩ | ⟨k, x, rfl, rfl⟩ := hm <;> rfl
    obtain ⟨hnew, hkept⟩ := replace_aliases { s with host := rest } b v
    exact ⟨_, (step_of_idle_cons hi hh).trans hmove, buffer_replace_same _ b v hheld,
      fun a ha => buffer_replace_other { s with host := rest } v ha, replace_held_length _ b v, hnew, hkept,
      replace_eq { s with host := rest } b v⟩
  · have hstep : step s = .next (State.discard { s with host := rest } b) := step_of_idle_cons hi hh
    exact ⟨by rintro rfl; exact hstep, by rintro rfl; exact hstep, by rintro n rfl; exact hstep⟩

/-! ### The host's moves while an operation runs (R166, R174) -/

/-- A busy machine refuses every move of the host but the five kinds that R174 and log entry 26 leave it. -/
theorem hostMoveBusy_refused {m : HostMove} (hstatus : m ≠ .readReg .status) (htick : m ≠ .tick)
    (hreset : m ≠ .reset) (htext : ∀ n k, m ≠ .readText (.held n) k)
    (hbyte : ∀ n k, m ≠ .readByte (.held n) k) (s : State) :
    hostMoveBusy m s = .refused .hostWhileBusy := by
  cases m with
  | tick => exact absurd rfl htick
  | reset => exact absurd rfl hreset
  | readReg r => exact if_neg fun hr => hstatus (congrArg HostMove.readReg hr)
  | readText b k =>
    cases b with
    | held n => exact absurd rfl (htext n k)
    | src | dst => rfl
  | readByte b k =>
    cases b with
    | held n => exact absurd rfl (hbyte n k)
    | src | dst => rfl
  | writeReg | writeBufctl | writeCmd | startCmd | create | fill | copy | writeText | writeByte | discard
    | placeBuffers => rfl

/-- Settles O51: the two kinds of read are those of an idle machine, and the rest is refused. -/
theorem hostKeepsHandsOffWhileBusy : Obligations.HostKeepsHandsOffWhileBusy := by
  intro s m rest hb hh
  have hstep : step s = hostMoveBusy m { s with host := rest } := step_of_busy_cons hb hh
  refine ⟨?_, ?_, ?_, fun hstatus htick hreset htext hbyte =>
    hstep.trans (hostMoveBusy_refused hstatus htick hreset htext hbyte _)⟩
  · rintro rfl
    have hread : step s = .next (hostReadReg .status { s with host := rest }) := hstep
    rw [hread, hostReadReg_bound (.inl (by decide))]
    rfl
  · rintro n k v rfl hv
    have hread : step s = .next (hostReadText (.held n) k { s with host := rest }) := hstep
    rw [hread, hostReadText, buffer_host, hv, hostReadElem_some]
  · rintro n k v rfl hv
    have hread : step s = .next (hostReadByte (.held n) k { s with host := rest }) := hstep
    rw [hread, hostReadByte, buffer_host, hv, hostReadElem_some]

end Sys2Proof.Machine
end
